-- ==== Sys2Proof/Word.lean ====
section
/-! DEFINITION. The one data type of the ZMC: the 32-bit word of R9. Every port, operand, result, bit pattern and
scalar is such a word ("a scalar has no existence apart from its pattern"). -/

namespace Sys2Proof

/-- A word: 32 bits, bit 31 the most significant (R9). -/
abbrev Word := BitVec 32

end Sys2Proof
end

