-- ==== Sys2Proof/Config.lean ====
section
/-! DEFINITION. What an implementation fixes (the constant record `CFG` of R6), and the one value the spec leaves
without a definition (a conversion outside the range of R15). -/

namespace Sys2Proof

/-- The five coefficients of an odd polynomial, `K[0..4]` of R23: for the powers 1, 3, 5, 7, 9. -/
structure OddCoeffs where
  k0 : Word
  k1 : Word
  k2 : Word
  k3 : Word
  k4 : Word
deriving DecidableEq, Repr

/-- The four coefficients of the degree-3 polynomial of `EXP`, `EXP_C[0..3]` of R6: for the powers 0 to 3. -/
structure CubicCoeffs where
  x0 : Word
  x1 : Word
  x2 : Word
  x3 : Word
deriving DecidableEq, Repr

/-- The configuration record `CFG` of R6, in the numbering of R47. A parameter of the model, never assumed to be
`CFG_REF`: State carries one (notes/assumptions/1.md), no step writes it, and statements hold for every value of it. -/
structure Cfg where
  magic : Word
  pi : Word
  tau : Word
  halfPi : Word
  ln2 : Word
  invLn2 : Word
  deg2radK : Word
  rad2degK : Word
  epsDiv : Word
  epsTan : Word
  logC : OddCoeffs
  expC : CubicCoeffs
  sinC : OddCoeffs
  atanC : OddCoeffs
deriving DecidableEq, Repr

/-- FREE VALUE (DESIGN CHOICE, safe, notes/assumptions/3.md): what `f2i` gives for a word whose exponent field is 150
or more, where R15 leaves it without a definition. No rule reaches it under `CFG_REF`; `EXP` reaches it under a `CFG`
whose `INV_LN2` makes `A * INV_LN2` a NaN. It has no body, so no proof can know its value. -/
opaque Config.f2iOpen : Word → Int

end Sys2Proof
end

