-- ==== Sys2Proof/Machine/Constants.lean ====
section
/-! DEFINITION. The scalar constants that rules write as numbers (R22), the canonical NaN (R19), and the decided
instance `CFG_REF` of the configuration record (R7). -/

namespace Sys2Proof.Machine

/-- `+0` (R22). -/
def posZero : Word := 0x00000000
/-- `-0` (R22). -/
def negZero : Word := 0x80000000
/-- `+Inf` (R22). -/
def posInf : Word := 0x7F800000
/-- `-Inf` (R22). -/
def negInf : Word := 0xFF800000
/-- `QNAN`, the canonical quiet NaN (R19). -/
def qnan : Word := 0x7FC00000
/-- `0.5` (R22). -/
def half : Word := 0x3F000000
/-- `1.0` (R22). -/
def one : Word := 0x3F800000
/-- `1.5` (R22). -/
def oneAndHalf : Word := 0x3FC00000
/-- `2.0` (R22). -/
def two : Word := 0x40000000
/-- `3.0` (R22). -/
def three : Word := 0x40400000
/-- `6.0` (R22). -/
def six : Word := 0x40C00000
/-- `10.0` (R22). -/
def ten : Word := 0x41200000
/-- `15.0` (R22). -/
def fifteen : Word := 0x41700000
/-- `-1.0` (R22). -/
def minusOne : Word := 0xBF800000
/-- `256.0` (R22). -/
def twoFiftySix : Word := 0x43800000
/-- `-256.0` (R22). -/
def minusTwoFiftySix : Word := 0xC3800000

/-- `CFG_REF`: the table of R7 (the same values stand in R47). -/
def cfgRef : Cfg where
  magic := 0x5F3759DF
  pi := 0x40490FDB
  tau := 0x40C90FDB
  halfPi := 0x3FC90FDB
  ln2 := 0x3F317218
  invLn2 := 0x3FB8AA3B
  deg2radK := 0x3C8EFA35
  rad2degK := 0x42652EE1
  epsDiv := 0x34000000
  epsTan := 0x34000000
  logC := ⟨0x40000000, 0x3F2AAAAB, 0x3ECCCCCD, 0x3E924925, 0x3E638E39⟩
  expC := ⟨0x3F800000, 0x3F317218, 0x3E75FDF0, 0x3D635847⟩
  sinC := ⟨0x3F800000, 0xBE2AAAAB, 0x3C088889, 0xB9500D01, 0x3638EF1D⟩
  atanC := ⟨0x3F7FF738, 0xBEA91D04, 0x3E3876E2, 0xBDAE5A36, 0x3CAAAE5F⟩

end Sys2Proof.Machine
end

