-- ==== Sys2Proof/Machine/Operands.lean ====
section
/-! DEFINITION. Looking inside operand words: the field extractor of R90 (fields of R10), the bit operations of R13,
words built back from fields, and the fields of a command word (R71). An operand is one whole word taken as it is (R73),
so there is no other operand form. -/

namespace Sys2Proof.Machine

/-- `S(w) = w[31]` (R10, R90). -/
def signBit (w : Word) : Bool := w.getLsbD 31

/-- `E(w) = w[30:23]`, an unsigned integer 0 to 255 (R10, R90). -/
def expField (w : Word) : Nat := (w.extractLsb' 23 8).toNat

/-- `M(w) = w[22:0]`, as an unsigned integer (R10, R90). -/
def mantissa (w : Word) : Nat := (w.extractLsb' 0 23).toNat

/-- `MAG(w) = w & 0x7FFFFFFF` (R10, R90). -/
def magnitude (w : Word) : Word := w &&& 0x7FFFFFFF

/-- The sign word `w & 0x80000000` (R90). -/
def signWord (w : Word) : Word := w &&& 0x80000000

/-- The word `{s, e[7:0], m[22:0]}` (R9, R10). -/
def ofFields (s : Bool) (e m : Nat) : Word := BitVec.ofBool s ++ BitVec.ofNat 8 e ++ BitVec.ofNat 23 m

/-- `E(w) = 255` and `M(w) != 0`: the class NaN of R11. -/
def isNaN (w : Word) : Bool := expField w == 255 && mantissa w != 0

/-- `E(w) = 255` and `M(w) = 0`: the class infinity of R11. -/
def isInf (w : Word) : Bool := expField w == 255 && mantissa w == 0

/-- `BIG(w)`, the large-magnitude guard: `E(w) >= 150` (R14, R120). -/
def big (w : Word) : Bool := decide (150 ≤ expField w)

/-- `a >> 1`: the logical shift right by one of the whole word (R13). -/
def shiftRightOne (a : Word) : Word := a >>> 1

/-- `a -32 b`: subtraction modulo 2^32 (R13). -/
def subMod32 (a b : Word) : Word := a - b

/-- `fneg(a) = a ^ 0x80000000` (R20). -/
def fneg (a : Word) : Word := a ^^^ 0x80000000

/-- `RSV = CMD[31:8]` of a command word (R71). -/
def cmdReserved (cmd : Word) : Nat := (cmd.extractLsb' 8 24).toNat

/-- `FAM = CMD[7:4]` of a command word (R71). -/
def cmdFamily (cmd : Word) : Nat := (cmd.extractLsb' 4 4).toNat

/-- `IDX = CMD[3:0]` of a command word (R71). -/
def cmdIndex (cmd : Word) : Nat := (cmd.extractLsb' 0 4).toNat

end Sys2Proof.Machine
end

