-- ==== Sys2Proof/Syntax.lean ====
section
/-! DEFINITION. The abstract syntax: the request frame of R70, the formats and result types of R72 and R75, and the
39 commands of R77, each with the operand words its format uses, in the order R72 gives them. -/

namespace Sys2Proof

/-- A request frame: six words presented together (R70). -/
structure Frame where
  cmd : Word
  a : Word
  b : Word
  c : Word
  d : Word
  e : Word
deriving DecidableEq, Repr

/-- The five operand words, first operand first (R41, R70). -/
def Frame.operands (f : Frame) : List Word := [f.a, f.b, f.c, f.d, f.e]

/-- The six words of a frame in the order of R70. -/
def Frame.words (f : Frame) : List Word := f.cmd :: f.operands

/-- A command's format: how many operand words it uses (R72). -/
inductive Format where
  | f1
  | f2
  | f3
  | f5
deriving DecidableEq, Repr

/-- How many operand words a format uses (R72). -/
def Format.arity : Format → Nat
  | .f1 => 1
  | .f2 => 2
  | .f3 => 3
  | .f5 => 5

/-- The three types a result word can have (R75). -/
inductive ResultType where
  | bitPattern
  | boolean
  | scalar
deriving DecidableEq, Repr

/-- The 39 commands of R77. The arguments are the operand words the format uses, named as the command's rule names
them; every 32-bit value of every argument is admitted (R231). -/
inductive Instr where
  /-- `TOBITS x` (R91). -/
  | tobits (x : Word)
  /-- `FROMBITS u` (R92). -/
  | frombits (u : Word)
  /-- `ABS x` (R100). -/
  | abs (x : Word)
  /-- `SIGN x` (R101). -/
  | sign (x : Word)
  /-- `COPYSIGN x, y`: magnitude of `x`, sign of `y` (R102). -/
  | copysign (x y : Word)
  /-- `ISNEAR a, b, tol` (R103). -/
  | isnear (a b tol : Word)
  /-- `ISNAN x` (R104). -/
  | isnan (x : Word)
  /-- `ISINF x` (R105). -/
  | isinf (x : Word)
  /-- `FLOOR x` (R122). -/
  | floor (x : Word)
  /-- `CEIL x` (R123). -/
  | ceil (x : Word)
  /-- `ROUND x` (R124). -/
  | round (x : Word)
  /-- `FRACT x` (R125). -/
  | fract (x : Word)
  /-- `FMOD x, y` (R126). -/
  | fmod (x y : Word)
  /-- `MOD x, y` (R127). -/
  | mod (x y : Word)
  /-- `INVSQRT x` (R140). -/
  | invsqrt (x : Word)
  /-- `SQRT x` (R141). -/
  | sqrt (x : Word)
  /-- `HYPOT x, y` (R142). -/
  | hypot (x y : Word)
  /-- `LOG x` (R160). -/
  | log (x : Word)
  /-- `LOG2 x` (R161). -/
  | log2 (x : Word)
  /-- `EXP x` (R162). -/
  | exp (x : Word)
  /-- `POW x, y`: base `x`, exponent `y` (R163). -/
  | pow (x y : Word)
  /-- `SIN x` (R180). -/
  | sin (x : Word)
  /-- `COS x` (R181). -/
  | cos (x : Word)
  /-- `TAN x` (R182). -/
  | tan (x : Word)
  /-- `ATAN x` (R183). -/
  | atan (x : Word)
  /-- `ATAN2 y, x` (R184): `A` is `y`, `B` is `x`. -/
  | atan2 (y x : Word)
  /-- `ASIN x` (R185). -/
  | asin (x : Word)
  /-- `ACOS x` (R186). -/
  | acos (x : Word)
  /-- `DEG2RAD x` (R187). -/
  | deg2rad (x : Word)
  /-- `RAD2DEG x` (R188). -/
  | rad2deg (x : Word)
  /-- `LERP a, b, t` (R210). -/
  | lerp (a b t : Word)
  /-- `INVLERP a, b, v` (R211). -/
  | invlerp (a b v : Word)
  /-- `REMAP a, b, c, d, v`: from `[a, b]` to `[c, d]` (R212). -/
  | remap (a b c d v : Word)
  /-- `STEP edge, x` (R213). -/
  | step (edge x : Word)
  /-- `SMOOTHSTEP e0, e1, x` (R214). -/
  | smoothstep (e0 e1 x : Word)
  /-- `SMOOTHERSTEP e0, e1, x` (R215). -/
  | smootherstep (e0 e1 x : Word)
  /-- `CLAMP x, lo, hi` (R216). -/
  | clamp (x lo hi : Word)
  /-- `MIN a, b` (R217). -/
  | min (a b : Word)
  /-- `MAX a, b` (R218). -/
  | max (a b : Word)
deriving DecidableEq, Repr

/-- The operand words a command uses, `A` first (R72). -/
def Instr.operands : Instr → List Word
  | .tobits x | .frombits x | .abs x | .sign x | .isnan x | .isinf x | .floor x | .ceil x | .round x | .fract x
  | .invsqrt x | .sqrt x | .log x | .log2 x | .exp x | .sin x | .cos x | .tan x | .atan x | .asin x | .acos x
  | .deg2rad x | .rad2deg x => [x]
  | .copysign x y | .fmod x y | .mod x y | .hypot x y | .pow x y | .atan2 x y | .step x y | .min x y | .max x y =>
    [x, y]
  | .isnear x y z | .lerp x y z | .invlerp x y z | .smoothstep x y z | .smootherstep x y z | .clamp x y z => [x, y, z]
  | .remap a b c d v => [a, b, c, d, v]

/-- The format of a command: the table of R72. -/
def Instr.format : Instr → Format
  | .tobits _ | .frombits _ | .abs _ | .sign _ | .isnan _ | .isinf _ | .floor _ | .ceil _ | .round _ | .fract _
  | .invsqrt _ | .sqrt _ | .log _ | .log2 _ | .exp _ | .sin _ | .cos _ | .tan _ | .atan _ | .asin _ | .acos _
  | .deg2rad _ | .rad2deg _ => .f1
  | .copysign _ _ | .fmod _ _ | .mod _ _ | .hypot _ _ | .pow _ _ | .atan2 _ _ | .step _ _ | .min _ _ | .max _ _ => .f2
  | .isnear _ _ _ | .lerp _ _ _ | .invlerp _ _ _ | .smoothstep _ _ _ | .smootherstep _ _ _ | .clamp _ _ _ => .f3
  | .remap _ _ _ _ _ => .f5

/-- The type of a command's result word (R75). -/
def Instr.resultType : Instr → ResultType
  | .tobits _ => .bitPattern
  | .isnear _ _ _ | .isnan _ | .isinf _ => .boolean
  | .frombits _ | .abs _ | .sign _ | .copysign _ _ | .floor _ | .ceil _ | .round _ | .fract _ | .fmod _ _ | .mod _ _
  | .invsqrt _ | .sqrt _ | .hypot _ _ | .log _ | .log2 _ | .exp _ | .pow _ _ | .sin _ | .cos _ | .tan _ | .atan _
  | .atan2 _ _ | .asin _ | .acos _ | .deg2rad _ | .rad2deg _ | .lerp _ _ _ | .invlerp _ _ _ | .remap _ _ _ _ _
  | .step _ _ | .smoothstep _ _ _ | .smootherstep _ _ _ | .clamp _ _ _ | .min _ _ | .max _ _ => .scalar

end Sys2Proof
end

