-- ==== Sys2Proof/WellFormed.lean ====
section
/-! DEFINITION. Well-formedness. A term of Instr is well formed when it carries as many operand words as its format uses
(R72): its type leaves no other term. A request frame is legal when its command word is one of the 39 (R71, R77, R78),
and assembled when, besides, the operand words its format does not use are zero (R79). -/

namespace Sys2Proof

open Sys2Proof.Machine (cmdReserved cmdFamily cmdIndex)

/-- The command carries the operand words its format uses (R72). -/
def Instr.wellFormed (i : Instr) : Bool := i.operands.length == i.format.arity

/-- The format of the command with a family and an index, where the opcode map has one (R72, R77). -/
def opFormat (fam idx : Nat) : Option Format :=
  match fam, idx with
  | 0, 1 | 0, 2 => some .f1
  | 1, 0 | 1, 1 | 1, 4 | 1, 5 => some .f1
  | 1, 2 => some .f2
  | 1, 3 => some .f3
  | 2, 0 | 2, 1 | 2, 2 | 2, 3 => some .f1
  | 2, 4 | 2, 5 => some .f2
  | 3, 0 | 3, 1 => some .f1
  | 3, 2 => some .f2
  | 4, 0 | 4, 1 | 4, 2 => some .f1
  | 4, 3 => some .f2
  | 5, 0 | 5, 1 | 5, 2 | 5, 3 | 5, 5 | 5, 6 | 5, 7 | 5, 8 => some .f1
  | 5, 4 => some .f2
  | 6, 0 | 6, 1 | 6, 4 | 6, 5 | 6, 6 => some .f3
  | 6, 2 => some .f5
  | 6, 3 | 6, 7 | 6, 8 => some .f2
  | _, _ => none

/-- Bits 31:8 of a command word are zero (R71, R78). -/
def reservedZero (cmd : Word) : Bool := cmdReserved cmd == 0

/-- The format a command word names, if its opcode is assigned (R77). -/
def formatOf (cmd : Word) : Option Format := opFormat (cmdFamily cmd) (cmdIndex cmd)

/-- A command word is one of the 39 (R78). -/
def legalCmd (cmd : Word) : Bool := reservedZero cmd && (formatOf cmd).isSome

/-- How many operand words a command word's command uses; an illegal command uses none (R72, R230). -/
def arityOf (cmd : Word) : Nat :=
  if reservedZero cmd then (match formatOf cmd with | some fmt => fmt.arity | none => 0) else 0

/-- The frame's command word is legal (R78). -/
def Frame.legal (f : Frame) : Bool := legalCmd f.cmd

/-- The operand words the frame's command uses (R41, R72, R230). -/
def Frame.usedOperands (f : Frame) : List Word := f.operands.take (arityOf f.cmd)

/-- The operand words the frame's command ignores are zero (R79). -/
def Frame.unusedZero (f : Frame) : Bool := (f.operands.drop (arityOf f.cmd)).all (· == 0)

/-- The frame is one the assembler of R79 writes. -/
def Frame.assembled (f : Frame) : Bool := f.legal && f.unusedZero

end Sys2Proof
end

