-- ==== Sys2Proof/Decode.lean ====
section
/-! DEFINITION. The opcode map of R77, the decoder (total on every frame, rejecting by name, R78) and, after it, the
encoder, written from the same table. The command word carries no operand (R71): a decoded command takes the operand words
its format uses from the frame (R72) and drops the others (R41). -/

namespace Sys2Proof

open Sys2Proof.Machine (cmdReserved cmdFamily cmdIndex)

/-- One row of the opcode map (R77): the mnemonic, the whole command word, the format and the result type. -/
structure OpcodeRow where
  mnemonic : String
  cmd : Word
  format : Format
  result : ResultType
deriving DecidableEq, Repr

/-- Family 0, bit view (R77). -/
def opcodeFamily0 : List OpcodeRow :=
  [⟨"TOBITS", 0x00000001, .f1, .bitPattern⟩,
   ⟨"FROMBITS", 0x00000002, .f1, .scalar⟩]

/-- Family 1, sign and classification (R77). -/
def opcodeFamily1 : List OpcodeRow :=
  [⟨"ABS", 0x00000010, .f1, .scalar⟩,
   ⟨"SIGN", 0x00000011, .f1, .scalar⟩,
   ⟨"COPYSIGN", 0x00000012, .f2, .scalar⟩,
   ⟨"ISNEAR", 0x00000013, .f3, .boolean⟩,
   ⟨"ISNAN", 0x00000014, .f1, .boolean⟩,
   ⟨"ISINF", 0x00000015, .f1, .boolean⟩]

/-- Family 2, rounding and modulo (R77). -/
def opcodeFamily2 : List OpcodeRow :=
  [⟨"FLOOR", 0x00000020, .f1, .scalar⟩,
   ⟨"CEIL", 0x00000021, .f1, .scalar⟩,
   ⟨"ROUND", 0x00000022, .f1, .scalar⟩,
   ⟨"FRACT", 0x00000023, .f1, .scalar⟩,
   ⟨"FMOD", 0x00000024, .f2, .scalar⟩,
   ⟨"MOD", 0x00000025, .f2, .scalar⟩]

/-- Family 3, roots (R77). -/
def opcodeFamily3 : List OpcodeRow :=
  [⟨"INVSQRT", 0x00000030, .f1, .scalar⟩,
   ⟨"SQRT", 0x00000031, .f1, .scalar⟩,
   ⟨"HYPOT", 0x00000032, .f2, .scalar⟩]

/-- Family 4, logarithm and exponential (R77). -/
def opcodeFamily4 : List OpcodeRow :=
  [⟨"LOG", 0x00000040, .f1, .scalar⟩,
   ⟨"LOG2", 0x00000041, .f1, .scalar⟩,
   ⟨"EXP", 0x00000042, .f1, .scalar⟩,
   ⟨"POW", 0x00000043, .f2, .scalar⟩]

/-- Family 5, trigonometry (R77). -/
def opcodeFamily5 : List OpcodeRow :=
  [⟨"SIN", 0x00000050, .f1, .scalar⟩,
   ⟨"COS", 0x00000051, .f1, .scalar⟩,
   ⟨"TAN", 0x00000052, .f1, .scalar⟩,
   ⟨"ATAN", 0x00000053, .f1, .scalar⟩,
   ⟨"ATAN2", 0x00000054, .f2, .scalar⟩,
   ⟨"ASIN", 0x00000055, .f1, .scalar⟩,
   ⟨"ACOS", 0x00000056, .f1, .scalar⟩,
   ⟨"DEG2RAD", 0x00000057, .f1, .scalar⟩,
   ⟨"RAD2DEG", 0x00000058, .f1, .scalar⟩]

/-- Family 6, interpolation and clamp (R77). -/
def opcodeFamily6 : List OpcodeRow :=
  [⟨"LERP", 0x00000060, .f3, .scalar⟩,
   ⟨"INVLERP", 0x00000061, .f3, .scalar⟩,
   ⟨"REMAP", 0x00000062, .f5, .scalar⟩,
   ⟨"STEP", 0x00000063, .f2, .scalar⟩,
   ⟨"SMOOTHSTEP", 0x00000064, .f3, .scalar⟩,
   ⟨"SMOOTHERSTEP", 0x00000065, .f3, .scalar⟩,
   ⟨"CLAMP", 0x00000066, .f3, .scalar⟩,
   ⟨"MIN", 0x00000067, .f2, .scalar⟩,
   ⟨"MAX", 0x00000068, .f2, .scalar⟩]

/-- The opcode map: the 39 rows of R77. -/
def opcodeTable : List OpcodeRow :=
  opcodeFamily0 ++ opcodeFamily1 ++ opcodeFamily2 ++ opcodeFamily3 ++ opcodeFamily4 ++ opcodeFamily5 ++ opcodeFamily6

/-- Why a frame is no command. Both raise `IllegalCommand` (R78, R230). -/
inductive Illegal where
  /-- `RSV != 0` (R71, R78). -/
  | reservedBits
  /-- `RSV = 0` and the opcode is not in the map (R78). -/
  | unassignedOpcode
deriving DecidableEq, Repr

/-- `OP = CMD[7:0] = {FAM, IDX}` (R71). -/
def opcodeOf (cmd : Word) : Nat := cmdFamily cmd * 16 + cmdIndex cmd

/-- The command an opcode names, with its operand words taken from the frame in the order of R72. -/
def decodeOp (op : Nat) (f : Frame) : Option Instr :=
  match op with
  | 0x01 => some (.tobits f.a)
  | 0x02 => some (.frombits f.a)
  | 0x10 => some (.abs f.a)
  | 0x11 => some (.sign f.a)
  | 0x12 => some (.copysign f.a f.b)
  | 0x13 => some (.isnear f.a f.b f.c)
  | 0x14 => some (.isnan f.a)
  | 0x15 => some (.isinf f.a)
  | 0x20 => some (.floor f.a)
  | 0x21 => some (.ceil f.a)
  | 0x22 => some (.round f.a)
  | 0x23 => some (.fract f.a)
  | 0x24 => some (.fmod f.a f.b)
  | 0x25 => some (.mod f.a f.b)
  | 0x30 => some (.invsqrt f.a)
  | 0x31 => some (.sqrt f.a)
  | 0x32 => some (.hypot f.a f.b)
  | 0x40 => some (.log f.a)
  | 0x41 => some (.log2 f.a)
  | 0x42 => some (.exp f.a)
  | 0x43 => some (.pow f.a f.b)
  | 0x50 => some (.sin f.a)
  | 0x51 => some (.cos f.a)
  | 0x52 => some (.tan f.a)
  | 0x53 => some (.atan f.a)
  | 0x54 => some (.atan2 f.a f.b)
  | 0x55 => some (.asin f.a)
  | 0x56 => some (.acos f.a)
  | 0x57 => some (.deg2rad f.a)
  | 0x58 => some (.rad2deg f.a)
  | 0x60 => some (.lerp f.a f.b f.c)
  | 0x61 => some (.invlerp f.a f.b f.c)
  | 0x62 => some (.remap f.a f.b f.c f.d f.e)
  | 0x63 => some (.step f.a f.b)
  | 0x64 => some (.smoothstep f.a f.b f.c)
  | 0x65 => some (.smootherstep f.a f.b f.c)
  | 0x66 => some (.clamp f.a f.b f.c)
  | 0x67 => some (.min f.a f.b)
  | 0x68 => some (.max f.a f.b)
  | _ => none

/-- The decoder: total on all frames, deciding on the command word alone (R71, R78, R233). -/
def decode (f : Frame) : Except Illegal Instr :=
  if cmdReserved f.cmd = 0 then
    match decodeOp (opcodeOf f.cmd) f with
    | some i => .ok i
    | none => .error .unassignedOpcode
  else .error .reservedBits

/-- The encoder: the request frame of a command, unused operand words zero (R77, R79). -/
def encode (i : Instr) : Frame :=
  match i with
  | .tobits x => ⟨0x00000001, x, 0, 0, 0, 0⟩
  | .frombits u => ⟨0x00000002, u, 0, 0, 0, 0⟩
  | .abs x => ⟨0x00000010, x, 0, 0, 0, 0⟩
  | .sign x => ⟨0x00000011, x, 0, 0, 0, 0⟩
  | .copysign x y => ⟨0x00000012, x, y, 0, 0, 0⟩
  | .isnear a b tol => ⟨0x00000013, a, b, tol, 0, 0⟩
  | .isnan x => ⟨0x00000014, x, 0, 0, 0, 0⟩
  | .isinf x => ⟨0x00000015, x, 0, 0, 0, 0⟩
  | .floor x => ⟨0x00000020, x, 0, 0, 0, 0⟩
  | .ceil x => ⟨0x00000021, x, 0, 0, 0, 0⟩
  | .round x => ⟨0x00000022, x, 0, 0, 0, 0⟩
  | .fract x => ⟨0x00000023, x, 0, 0, 0, 0⟩
  | .fmod x y => ⟨0x00000024, x, y, 0, 0, 0⟩
  | .mod x y => ⟨0x00000025, x, y, 0, 0, 0⟩
  | .invsqrt x => ⟨0x00000030, x, 0, 0, 0, 0⟩
  | .sqrt x => ⟨0x00000031, x, 0, 0, 0, 0⟩
  | .hypot x y => ⟨0x00000032, x, y, 0, 0, 0⟩
  | .log x => ⟨0x00000040, x, 0, 0, 0, 0⟩
  | .log2 x => ⟨0x00000041, x, 0, 0, 0, 0⟩
  | .exp x => ⟨0x00000042, x, 0, 0, 0, 0⟩
  | .pow x y => ⟨0x00000043, x, y, 0, 0, 0⟩
  | .sin x => ⟨0x00000050, x, 0, 0, 0, 0⟩
  | .cos x => ⟨0x00000051, x, 0, 0, 0, 0⟩
  | .tan x => ⟨0x00000052, x, 0, 0, 0, 0⟩
  | .atan x => ⟨0x00000053, x, 0, 0, 0, 0⟩
  | .atan2 y x => ⟨0x00000054, y, x, 0, 0, 0⟩
  | .asin x => ⟨0x00000055, x, 0, 0, 0, 0⟩
  | .acos x => ⟨0x00000056, x, 0, 0, 0, 0⟩
  | .deg2rad x => ⟨0x00000057, x, 0, 0, 0, 0⟩
  | .rad2deg x => ⟨0x00000058, x, 0, 0, 0, 0⟩
  | .lerp a b t => ⟨0x00000060, a, b, t, 0, 0⟩
  | .invlerp a b v => ⟨0x00000061, a, b, v, 0, 0⟩
  | .remap a b c d v => ⟨0x00000062, a, b, c, d, v⟩
  | .step edge x => ⟨0x00000063, edge, x, 0, 0, 0⟩
  | .smoothstep e0 e1 x => ⟨0x00000064, e0, e1, x, 0, 0⟩
  | .smootherstep e0 e1 x => ⟨0x00000065, e0, e1, x, 0, 0⟩
  | .clamp x lo hi => ⟨0x00000066, x, lo, hi, 0, 0⟩
  | .min a b => ⟨0x00000067, a, b, 0, 0, 0⟩
  | .max a b => ⟨0x00000068, a, b, 0, 0, 0⟩

/-- The six words of a command's request frame (R70). -/
def encodeWords (i : Instr) : List Word := (encode i).words

/-- The frame whose six words are read off a number, the command word in bits 31:0, `A` in bits 63:32 and so on up to `E`
in bits 191:160 (the numbering of the opcode table; the ZMC itself has no byte or word order, R62;
notes/assumptions/18.md). -/
def frameOfNat (n : Nat) : Frame where
  cmd := BitVec.ofNat 32 n
  a := BitVec.ofNat 32 (n / 2 ^ 32)
  b := BitVec.ofNat 32 (n / 2 ^ 64)
  c := BitVec.ofNat 32 (n / 2 ^ 96)
  d := BitVec.ofNat 32 (n / 2 ^ 128)
  e := BitVec.ofNat 32 (n / 2 ^ 160)

/-- The command the decoder reads from a frame whose low `nbits` bits are `w` and whose other bits are zero. -/
def decodeTableWord (nbits w : Nat) : Option Instr :=
  match decode (frameOfNat (w % 2 ^ nbits)) with
  | .ok i => some i
  | .error _ => none

end Sys2Proof
end

