-- ==== Sys2Proof/Machine/Flags.lean ====
section
/-! DEFINITION. The one-bit outcomes. The ZMC has no status flag, condition code or sticky bit (R45), so no flag
computation exists; what is left is the boolean result word (R76) and the fault bit `F` of a response (R42, R74). -/

namespace Sys2Proof.Machine

/-- `zext_32(b)`: a boolean as a result word (R12, R76). -/
def boolWord (b : Bool) : Word := if b then 0x00000001 else 0x00000000

/-- The fault bit of a legal command's response (R74). -/
def faultClear : Bool := false

/-- The fault bit of an `IllegalCommand` response (R74, R230). -/
def faultSet : Bool := true

/-- The causes of a fault a response can report: there is one (R230). -/
inductive CommandFault where
  /-- The command word is not one of the 39 (R78, R230). -/
  | illegalCommand
deriving DecidableEq, Repr

/-- The cause code, a name only: the hardware emits `F = 1` and nothing else (R230). -/
def causeCode : CommandFault → Nat
  | .illegalCommand => 1

end Sys2Proof.Machine
end

