-- ==== Sys2Proof/Machine/Float.lean ====
section
/-! DEFINITION. The floating-point primitives of R11 and R15 to R23, computed exactly. Every finite binary32 value is
an integer multiple of 2^-149 (R11), so values are held as integers in that unit and each primitive rounds once. -/

namespace Sys2Proof.Machine

/-- What a word stands for: the classes of R11. `fin neg mag` is the number `mag * 2^-149` with the sign `neg`; a zero
keeps its sign. -/
inductive Val where
  | nan
  | inf (neg : Bool)
  | fin (neg : Bool) (mag : Nat)
deriving DecidableEq, Repr

/-- The magnitude of a finite word in units of 2^-149: `M` for zeros and subnormals, `(2^23 + M) * 2^(E-1)` for normal
words (R11). -/
def magUnits (w : Word) : Nat :=
  if expField w = 0 then mantissa w else (2 ^ 23 + mantissa w) * 2 ^ (expField w - 1)

/-- `val(w)` (R11). -/
def val (w : Word) : Val :=
  if expField w = 255 then (if mantissa w = 0 then .inf (signBit w) else .nan) else .fin (signBit w) (magUnits w)

/-- A sign and a magnitude in units of 2^-149, as an exact integer. -/
def signedUnits (neg : Bool) (mag : Nat) : Int := if neg then -(mag : Int) else mag

/-- The word of sign `neg` whose low 31 bits are `mag`. -/
def packWord (neg : Bool) (mag : Nat) : Word := BitVec.ofNat 32 ((if neg then 2 ^ 31 else 0) + mag)

/-- The zero of a sign (R22). -/
def zeroOf (neg : Bool) : Word := if neg then negZero else posZero

/-- The infinity of a sign (R22). -/
def infOf (neg : Bool) : Word := if neg then negInf else posInf

/-- The 31-bit magnitude pattern nearest to `n / d` units of 2^-149, ties to even: R17. The spacing is `2^k` units in
the binade of the quotient (`k = 0` for subnormals and the first normal binade); a rounded magnitude of 2^128 or more is
the pattern of infinity. -/
def roundMag (n d : Nat) : Nat :=
  let k := Nat.log2 (n / d) - 23
  let den := d * 2 ^ k
  let m := n / den
  let r := n % den
  let m' := if den < 2 * r ∨ (2 * r = den ∧ m % 2 = 1) then m + 1 else m
  Nat.min (k * 2 ^ 23 + m') (255 * 2 ^ 23)

/-- The scalar of sign `neg` nearest to `n / d` units of 2^-149 (R17). -/
def roundTo (neg : Bool) (n d : Nat) : Word := packWord neg (roundMag n d)

/-- `fadd` (R17 to R19). -/
def fadd (a b : Word) : Word :=
  match val a, val b with
  | .nan, _ => qnan
  | _, .nan => qnan
  | .inf s, .inf t => if s = t then infOf s else qnan
  | .inf s, .fin _ _ => infOf s
  | .fin _ _, .inf t => infOf t
  | .fin s m, .fin t n =>
    let x := signedUnits s m + signedUnits t n
    if x = 0 then zeroOf (s && t) else roundTo (decide (x < 0)) x.natAbs 1

/-- `fsub(a, b) = fadd(a, fneg(b))` (R18). -/
def fsub (a b : Word) : Word := fadd a (fneg b)

/-- `fmul` (R17 to R19). -/
def fmul (a b : Word) : Word :=
  match val a, val b with
  | .nan, _ => qnan
  | _, .nan => qnan
  | .inf s, .inf t => infOf (s ^^ t)
  | .inf s, .fin t n => if n = 0 then qnan else infOf (s ^^ t)
  | .fin s m, .inf t => if m = 0 then qnan else infOf (s ^^ t)
  | .fin s m, .fin t n => roundTo (s ^^ t) (m * n) (2 ^ 149)

/-- `fdiv` (R17 to R19). -/
def fdiv (a b : Word) : Word :=
  match val a, val b with
  | .nan, _ => qnan
  | _, .nan => qnan
  | .inf _, .inf _ => qnan
  | .inf s, .fin t _ => infOf (s ^^ t)
  | .fin s _, .inf t => zeroOf (s ^^ t)
  | .fin s m, .fin t n =>
    if n = 0 then (if m = 0 then qnan else infOf (s ^^ t)) else roundTo (s ^^ t) (m * 2 ^ 149) n

/-- `flt(a, b)`: less than, false on NaN (R21). -/
def flt (a b : Word) : Bool :=
  match val a, val b with
  | .nan, _ => false
  | _, .nan => false
  | .inf s, .inf t => s && !t
  | .inf s, .fin _ _ => s
  | .fin _ _, .inf t => !t
  | .fin s m, .fin t n => decide (signedUnits s m < signedUnits t n)

/-- `fle(a, b)`: less than or equal, false on NaN (R21). -/
def fle (a b : Word) : Bool :=
  match val a, val b with
  | .nan, _ => false
  | _, .nan => false
  | .inf s, .inf t => s || !t
  | .inf s, .fin _ _ => s
  | .fin _ _, .inf t => !t
  | .fin s m, .fin t n => decide (signedUnits s m ≤ signedUnits t n)

/-- `feq(a, b)`: equal, zeros of either sign equal, false on NaN (R21). -/
def feq (a b : Word) : Bool :=
  match val a, val b with
  | .nan, _ => false
  | _, .nan => false
  | .inf s, .inf t => s == t
  | .inf _, .fin _ _ => false
  | .fin _ _, .inf _ => false
  | .fin s m, .fin t n => decide (signedUnits s m = signedUnits t n)

/-- `f2i(v)`: truncation toward zero where `E(v) < 150` (R15); elsewhere R15 gives no value and the result is free
(notes/assumptions/3.md). -/
def f2i (v : Word) : Int :=
  if expField v < 150 then signedUnits (signBit v) (magUnits v / 2 ^ 149) else Config.f2iOpen v

/-- `i2f(i)`: the scalar with the value `i`, `+0` for 0 (R16). -/
def i2f (i : Int) : Word := roundTo (decide (i < 0)) (i.natAbs * 2 ^ 149) 1

/-- `oddpoly(K, v)`: Horner's rule in the arrangement of R23. -/
def oddpoly (k : OddCoeffs) (v : Word) : Word :=
  let v2 := fmul v v
  let p := k.k4
  let p := fadd k.k3 (fmul v2 p)
  let p := fadd k.k2 (fmul v2 p)
  let p := fadd k.k1 (fmul v2 p)
  let p := fadd k.k0 (fmul v2 p)
  fmul v p

end Sys2Proof.Machine
end

