-- ==== Sys2Proof/Machine/State.lean ====
section
/-! DEFINITION. The state of the ZMC: the two channels and the commands in flight (R40 to R42, R49), the constant store
(R47), the level of the reset input (R250), and the model's own schedule of the unit's unconstrained latency (R254). There
is nothing else: no register, program counter, flag, control register or memory exists (R43 to R46, R48, R49). -/

namespace Sys2Proof.Machine

/-- A response: the result word `R` and the fault bit `F`, presented together (R42, R74). -/
structure Response where
  r : Word
  f : Bool
deriving DecidableEq, Repr

/-- What the unit does at a coming step. The MODEL's own (notes/assumptions/4.md): the order of execution, the overlap
and the latency of commands are unconstrained (R63, R65, R254). -/
inductive Pace where
  /-- Accept the oldest presented request. -/
  | accept
  /-- Answer the oldest command in flight. -/
  | answer
  /-- Neither: the commands in flight take longer. -/
  | wait
deriving DecidableEq, Repr

/-- The state of the ZMC. -/
structure State where
  /-- The constant store `CFG`: hardwired, written by nothing (R47; notes/assumptions/1.md). -/
  cfg : Cfg
  /-- The level of the reset input: true while it is asserted (R250). -/
  rst : Bool
  /-- The request channel: frames presented by the host and not yet accepted, oldest first (R41, R70). -/
  requests : List Frame
  /-- The commands in flight, in acceptance order (R49, R65). -/
  inFlight : List Frame
  /-- The response channel: responses produced and not yet taken by the host, oldest first (R42, R63, R74). -/
  responses : List Response
  /-- The unit's coming choices; when none is left it answers what is in flight and then accepts (model's own). -/
  pace : List Pace
deriving DecidableEq, Repr

/-- Why the machine stops with a fault: never. `IllegalCommand`, the one fault of the ZMC, "does not stop, stall or reset
the ZMC" and is delivered as a response (R230, R234), so this type has no constructor (safe: notes/assumptions/9.md). -/
inductive Fault where
deriving DecidableEq, Repr

/-- Why a step has no meaning. -/
inductive Refusal where
  /-- An instruction the model gives no meaning; raised by exec's arms for such an instruction only, and there is none
  (safe: the model stops where the hardware goes on). -/
  | notModelled (mnemonic : String)
deriving DecidableEq, Repr

/-- The idle unit with a given constant store: no request presented, no command in flight, no response pending, reset
released (R50, R250). -/
def State.idle (cfg : Cfg) : State where
  cfg := cfg
  rst := false
  requests := []
  inFlight := []
  responses := []
  pace := []

/-- The machine right after reset (R50, R250), with the decided constants `CFG_REF` (R7; notes/assumptions/1.md). -/
def State.reset : State := State.idle cfgRef

end Sys2Proof.Machine
end

