-- ==== Sys2Proof/Machine/Ops.lean ====
section
/-! DEFINITION. The named operations over the channels: what the host does (present, take, drive reset) and what the unit
does (accept, deliver a response, raise the one fault). There is no memory and no register to operate on (R43, R49), and no
return from a fault (R235). -/

namespace Sys2Proof.Machine

/-- The host presents one more request (R70). -/
def State.present (s : State) (f : Frame) : State := { s with requests := s.requests ++ [f] }

/-- The host takes the oldest pending response, if there is one (R63, R74): the response and what is left. -/
def State.takeResponse (s : State) : Option (Response × State) :=
  match s.responses with
  | [] => none
  | r :: rs => some (r, { s with responses := rs })

/-- Everything in flight and every response not yet delivered is dropped; no trace is left (R250, R251). -/
def State.dropInFlight (s : State) : State := { s with inFlight := [], responses := [] }

/-- The host asserts reset (R250, R251): what is in flight is dropped at once. Presented requests stay presented
(notes/assumptions/17.md) and `CFG` is untouched (R47, R50). -/
def State.assertReset (s : State) : State := { s.dropInFlight with rst := true }

/-- The host releases reset (R250). -/
def State.releaseReset (s : State) : State := { s with rst := false }

/-- Acceptance, one indivisible event: the oldest presented request comes into flight as the youngest (R63, R65, R70).
Nothing happens where no request is presented. -/
def State.acceptOldest (s : State) : State :=
  match s.requests with
  | [] => s
  | f :: fs => { s with requests := fs, inFlight := s.inFlight ++ [f] }

/-- A response joins the response channel behind those already there (R63, R74). -/
def State.deliver (s : State) (x : Response) : State := { s with responses := s.responses ++ [x] }

/-- `return v`: `R <- v; F <- 0`, the end of a legal command (R12, R74). -/
def respond (v : Word) (s : State) : Host.Outcome State Fault Refusal := .next (s.deliver ⟨v, faultClear⟩)

/-- `raise IllegalCommand(cmd)`: `R <- 0; F <- 1`, the end of the command (R12, R230). This is all there is of taking an
exception: nothing is saved or recorded, nothing stops, and no handler exists (R230, R234). The cause is the only one. -/
def raiseFault (_ : CommandFault) (s : State) : Host.Outcome State Fault Refusal :=
  .next (s.deliver ⟨0x00000000, faultSet⟩)

end Sys2Proof.Machine
end

