-- ==== Sys2Proof/Machine/BitView.lean ====
section
/-! DEFINITION. Family 0, the bit view (40_bitview.md). -/

namespace Sys2Proof.Machine

/-- `TOBITS(x)`: the operand word unchanged (R91). -/
def toBitsWord (x : Word) : Word := x

/-- `FROMBITS(u)`: the operand word unchanged (R92). -/
def fromBitsWord (u : Word) : Word := u

/-- `TOBITS x` (R91). -/
def execToBits (x : Word) (s : State) : Host.Outcome State Fault Refusal := respond (toBitsWord x) s

/-- `FROMBITS u` (R92). -/
def execFromBits (u : Word) (s : State) : Host.Outcome State Fault Refusal := respond (fromBitsWord u) s

end Sys2Proof.Machine
end

