-- ==== Sys2Proof/Machine/Interp.lean ====
section
/-! DEFINITION. Family 6, interpolation and clamp (46_interp.md). -/

namespace Sys2Proof.Machine

/-- `LERP(a, b, t) = (1-t)a + tb`, each operation rounded (R210). DEDUCED: for an end point -0 the word at `t = +0` or `t = 1.0` is
the pseudocode's (notes/assumptions/19.md). -/
def lerpWord (a b t : Word) : Word := fadd (fmul (fsub one t) a) (fmul t b)

/-- `INVLERP(a, b, v) = (v-a)/(b-a)`, unguarded (R211). DEDUCED: for end points +0 and -0, and for one infinity twice, the word is the
pseudocode's (notes/assumptions/19.md). -/
def invLerpWord (a b v : Word) : Word := fdiv (fsub v a) (fsub b a)

/-- `REMAP(a, b, c, d, v)`: INVLERP, then LERP (R212). -/
def remapWord (a b c d v : Word) : Word := lerpWord c d (invLerpWord a b v)

/-- `STEP(edge, x)` (R213). -/
def stepWord (edge x : Word) : Word := if flt x edge then posZero else one

/-- `CLAMP(x, lo, hi)`: the lower bound first (R216). -/
def clampWord (x lo hi : Word) : Word :=
  if flt x lo then lo
  else if flt hi x then hi
  else x

/-- `SMOOTHSTEP(e0, e1, x)`: the cubic of the clamped normalised input (R214). DEDUCED: where the span overflows or an edge is
infinite the word is the pseudocode's, QNAN at the upper edge (notes/assumptions/19.md). -/
def smoothStepWord (e0 e1 x : Word) : Word :=
  let t := clampWord (invLerpWord e0 e1 x) posZero one
  fmul (fmul t t) (fsub three (fmul two t))

/-- `SMOOTHERSTEP(e0, e1, x)`: the quintic of the clamped normalised input (R215). DEDUCED: for `t = -0` the word is the pseudocode's,
-0, and where the span overflows or an edge is infinite as for SMOOTHSTEP (notes/assumptions/19.md). -/
def smootherStepWord (e0 e1 x : Word) : Word :=
  let t := clampWord (invLerpWord e0 e1 x) posZero one
  let q := fadd (fmul t (fsub (fmul t six) fifteen)) ten
  fmul (fmul (fmul t t) t) q

/-- `MIN(a, b)`: `b` where the comparison is false (R217). -/
def minWord (a b : Word) : Word := if flt a b then a else b

/-- `MAX(a, b)`: `b` where the comparison is false (R218). -/
def maxWord (a b : Word) : Word := if flt b a then a else b

/-- `LERP a, b, t` (R210). -/
def execLerp (a b t : Word) (s : State) : Host.Outcome State Fault Refusal := respond (lerpWord a b t) s

/-- `INVLERP a, b, v` (R211). -/
def execInvLerp (a b v : Word) (s : State) : Host.Outcome State Fault Refusal := respond (invLerpWord a b v) s

/-- `REMAP a, b, c, d, v` (R212). -/
def execRemap (a b c d v : Word) (s : State) : Host.Outcome State Fault Refusal := respond (remapWord a b c d v) s

/-- `STEP edge, x` (R213). -/
def execStep (edge x : Word) (s : State) : Host.Outcome State Fault Refusal := respond (stepWord edge x) s

/-- `SMOOTHSTEP e0, e1, x` (R214). -/
def execSmoothStep (e0 e1 x : Word) (s : State) : Host.Outcome State Fault Refusal := respond (smoothStepWord e0 e1 x) s

/-- `SMOOTHERSTEP e0, e1, x` (R215). -/
def execSmootherStep (e0 e1 x : Word) (s : State) : Host.Outcome State Fault Refusal :=
  respond (smootherStepWord e0 e1 x) s

/-- `CLAMP x, lo, hi` (R216). -/
def execClamp (x lo hi : Word) (s : State) : Host.Outcome State Fault Refusal := respond (clampWord x lo hi) s

/-- `MIN a, b` (R217). -/
def execMin (a b : Word) (s : State) : Host.Outcome State Fault Refusal := respond (minWord a b) s

/-- `MAX a, b` (R218). -/
def execMax (a b : Word) (s : State) : Host.Outcome State Fault Refusal := respond (maxWord a b) s

end Sys2Proof.Machine
end

