-- ==== Sys2Proof/Machine/Sign.lean ====
section
/-! DEFINITION. Family 1, sign and classification (41_sign_classify.md). -/

namespace Sys2Proof.Machine

/-- `ABS(x)`: the sign bit cleared (R100). -/
def absWord (x : Word) : Word := magnitude x

/-- `SIGN(x)`: 1.0, -1.0 or +0 by direct comparison, +0 for NaN (R101). -/
def signOfWord (x : Word) : Word :=
  if flt posZero x then one
  else if flt x posZero then minusOne
  else posZero

/-- `COPYSIGN(x, y)`: the magnitude of `x` with the sign bit of `y` (R102). -/
def copySignWord (x y : Word) : Word := magnitude x ||| signWord y

/-- `ISNEAR(a, b, tol)`: `|a - b| <= tol`, the difference rounded once (R103). -/
def isNearWord (a b tol : Word) : Word := boolWord (fle (absWord (fsub a b)) tol)

/-- `ISNAN(x)` (R104). -/
def isNanWord (x : Word) : Word := boolWord (isNaN x)

/-- `ISINF(x)` (R105). -/
def isInfWord (x : Word) : Word := boolWord (isInf x)

/-- `ABS x` (R100). -/
def execAbs (x : Word) (s : State) : Host.Outcome State Fault Refusal := respond (absWord x) s

/-- `SIGN x` (R101). -/
def execSign (x : Word) (s : State) : Host.Outcome State Fault Refusal := respond (signOfWord x) s

/-- `COPYSIGN x, y` (R102). -/
def execCopySign (x y : Word) (s : State) : Host.Outcome State Fault Refusal := respond (copySignWord x y) s

/-- `ISNEAR a, b, tol` (R103). -/
def execIsNear (a b tol : Word) (s : State) : Host.Outcome State Fault Refusal := respond (isNearWord a b tol) s

/-- `ISNAN x` (R104). -/
def execIsNan (x : Word) (s : State) : Host.Outcome State Fault Refusal := respond (isNanWord x) s

/-- `ISINF x` (R105). -/
def execIsInf (x : Word) (s : State) : Host.Outcome State Fault Refusal := respond (isInfWord x) s

end Sys2Proof.Machine
end

