-- ==== Sys2Proof/Machine/Rounding.lean ====
section
/-! DEFINITION. Family 2, rounding and modulo (42_round_mod.md). -/

namespace Sys2Proof.Machine

/-- `TRUNC(w)`, an internal function with no opcode: the integer part toward zero (R121). -/
def truncWord (w : Word) : Word := if big w then w else i2f (f2i w)

/-- `FLOOR(x)` (R122). -/
def floorWord (x : Word) : Word :=
  if big x then x
  else
    let t := i2f (f2i x)
    if flt x t then fsub t one else t

/-- `CEIL(x)` (R123). -/
def ceilWord (x : Word) : Word :=
  if big x then x
  else
    let t := i2f (f2i x)
    if flt t x then fadd t one else t

/-- `ROUND(x)`: halves away from zero (R124). -/
def roundWord (x : Word) : Word :=
  if big x then x
  else if fle posZero x then floorWord (fadd x half)
  else ceilWord (fsub x half)

/-- `FRACT(x)` (R125). -/
def fractWord (x : Word) : Word := fsub x (floorWord x)

/-- `FMOD(x, y)`: the truncating remainder, +0 where `|y| < EPS_DIV` (R126). DEDUCED: where the quotient or its product with `y`
overflows or rounds up, and for a `y` of zero or a subnormal that `EPS_DIV` does not guard, the word is the pseudocode's
(notes/assumptions/19.md). -/
def fmodWord (cfg : Cfg) (x y : Word) : Word :=
  if flt (absWord y) cfg.epsDiv then posZero
  else
    let q := fdiv x y
    fsub x (fmul y (truncWord q))

/-- `MOD(x, y)`: the Euclidean remainder, +0 where `|y| < EPS_DIV` (R127). DEDUCED: for the multiple `x = -0`, where the
quotient or its product with `y` overflows or rounds up, and for a `y` of zero or a subnormal that `EPS_DIV` does not guard, the word
is the pseudocode's (notes/assumptions/19.md). -/
def modWord (cfg : Cfg) (x y : Word) : Word :=
  if flt (absWord y) cfg.epsDiv then posZero
  else
    let q := fdiv x y
    fsub x (fmul y (floorWord q))

/-- `FLOOR x` (R122). -/
def execFloor (x : Word) (s : State) : Host.Outcome State Fault Refusal := respond (floorWord x) s

/-- `CEIL x` (R123). -/
def execCeil (x : Word) (s : State) : Host.Outcome State Fault Refusal := respond (ceilWord x) s

/-- `ROUND x` (R124). -/
def execRound (x : Word) (s : State) : Host.Outcome State Fault Refusal := respond (roundWord x) s

/-- `FRACT x` (R125). -/
def execFract (x : Word) (s : State) : Host.Outcome State Fault Refusal := respond (fractWord x) s

/-- `FMOD x, y` (R126). -/
def execFmod (x y : Word) (s : State) : Host.Outcome State Fault Refusal := respond (fmodWord s.cfg x y) s

/-- `MOD x, y` (R127). -/
def execMod (x y : Word) (s : State) : Host.Outcome State Fault Refusal := respond (modWord s.cfg x y) s

end Sys2Proof.Machine
end

