-- ==== Sys2Proof/Machine/LogExp.lean ====
section
/-! DEFINITION. Family 4, the log/exp engine (44_logexp.md). -/

namespace Sys2Proof.Machine

/-- `LOG(x)`: -Inf for `x <= 0`, else exponent times ln 2 plus the odd polynomial of the mantissa; NaN, +Inf and subnormals
run the same datapath (R160). DEDUCED: a NaN for which the polynomial overflows gives the pseudocode's infinity
(notes/assumptions/19.md). -/
def logWord (cfg : Cfg) (x : Word) : Word :=
  if fle x posZero then negInf
  else
    let e : Int := (expField x : Int) - 127
    let m := (x &&& 0x807FFFFF) ||| 0x3F800000
    let z := fdiv (fsub m one) (fadd m one)
    let p := oddpoly cfg.logC z
    fadd (fmul (i2f e) cfg.ln2) p

/-- `LOG2(x)` (R161). DEDUCED: for `x <= 0` the word is the pseudocode's product, whatever `INV_LN2` is (notes/assumptions/19.md). -/
def log2Word (cfg : Cfg) (x : Word) : Word := fmul (logWord cfg x) cfg.invLn2

/-- The cubic of `EXP` in Horner's arrangement (R162, R23). -/
def expPoly (k : CubicCoeffs) (r : Word) : Word := fadd k.x0 (fmul r (fadd k.x1 (fmul r (fadd k.x2 (fmul r k.x3)))))

/-- The exponent injection of `EXP`: `n` added into the exponent field of `p`, saturating to a signed infinity or a signed
zero where the field would leave 1 to 254 (R14, R162). DEDUCED: the sign is kept, as in the pseudocode (notes/assumptions/19.md). -/
def injectExponent (p : Word) (n : Int) : Word :=
  let e2 : Int := (expField p : Int) + n
  if 255 ≤ e2 then ofFields (signBit p) 0xFF 0
  else if e2 ≤ 0 then ofFields (signBit p) 0x00 0
  else ofFields (signBit p) e2.toNat (mantissa p)

/-- `EXP(x)` (R162). DEDUCED: `r` can lie slightly outside `|r| <= 0.5`, as the pseudocode has it (notes/assumptions/19.md). -/
def expWord (cfg : Cfg) (x : Word) : Word :=
  if isNaN x then qnan
  else
    let t := fmul x cfg.invLn2
    let k := roundWord t
    if fle twoFiftySix k then posInf
    else if fle k minusTwoFiftySix then posZero
    else
      let r := fsub t k
      let p := expPoly cfg.expC r
      injectExponent p (f2i k)

/-- `POW(x, y)`: the base test, then the exponent test, then `EXP(y * LOG(x))` (R163). -/
def powWord (cfg : Cfg) (x y : Word) : Word :=
  if fle x posZero then posZero
  else if feq y posZero then one
  else expWord cfg (fmul y (logWord cfg x))

/-- `LOG x` (R160). -/
def execLog (x : Word) (s : State) : Host.Outcome State Fault Refusal := respond (logWord s.cfg x) s

/-- `LOG2 x` (R161). -/
def execLog2 (x : Word) (s : State) : Host.Outcome State Fault Refusal := respond (log2Word s.cfg x) s

/-- `EXP x` (R162). -/
def execExp (x : Word) (s : State) : Host.Outcome State Fault Refusal := respond (expWord s.cfg x) s

/-- `POW x, y` (R163). -/
def execPow (x y : Word) (s : State) : Host.Outcome State Fault Refusal := respond (powWord s.cfg x y) s

end Sys2Proof.Machine
end

