-- ==== Sys2Proof/Machine/Root.lean ====
section
/-! DEFINITION. Family 3, the root engine (43_root.md). -/

namespace Sys2Proof.Machine

/-- `INVSQRT(x)`: the magic-constant guess and one Newton step, no guard of any kind (R140, R143). -/
def invSqrtWord (cfg : Cfg) (x : Word) : Word :=
  let y0 := subMod32 cfg.magic (shiftRightOne x)
  let h := fmul (fmul (fmul half x) y0) y0
  fmul y0 (fsub oneAndHalf h)

/-- `SQRT(x)`: +0 for `x <= 0`, else one refinement of `x * INVSQRT(x)` (R141). -/
def sqrtWord (cfg : Cfg) (x : Word) : Word :=
  if fle x posZero then posZero
  else
    let g := fmul x (invSqrtWord cfg x)
    fmul half (fadd g (fdiv x g))

/-- `HYPOT(x, y)`: the larger magnitude factored out (R142). -/
def hypotWord (cfg : Cfg) (x y : Word) : Word :=
  let ax := absWord x
  let ay := absWord y
  let mx := maxWord ax ay
  let mn := minWord ax ay
  if feq mx posZero then posZero
  else
    let r := fdiv mn mx
    fmul mx (sqrtWord cfg (fadd one (fmul r r)))

/-- `INVSQRT x` (R140). -/
def execInvSqrt (x : Word) (s : State) : Host.Outcome State Fault Refusal := respond (invSqrtWord s.cfg x) s

/-- `SQRT x` (R141). -/
def execSqrt (x : Word) (s : State) : Host.Outcome State Fault Refusal := respond (sqrtWord s.cfg x) s

/-- `HYPOT x, y` (R142). -/
def execHypot (x y : Word) (s : State) : Host.Outcome State Fault Refusal := respond (hypotWord s.cfg x y) s

end Sys2Proof.Machine
end

