-- ==== Sys2Proof/Machine/Trig.lean ====
section
/-! DEFINITION. Family 5, the trigonometric engine (45_trig.md). -/

namespace Sys2Proof.Machine

/-- The fold into [-pi/2, pi/2] by reflection across pi: stage 2 of `SIN` (R180). -/
def foldHalfPi (cfg : Cfg) (r : Word) : Word :=
  if flt cfg.halfPi r then fsub cfg.pi r
  else if flt r (fneg cfg.halfPi) then fsub (fneg cfg.pi) r
  else r

/-- `SIN(x)`: reduction by `round(x/TAU)*TAU`, the fold, the odd polynomial (R180). -/
def sinWord (cfg : Cfg) (x : Word) : Word :=
  let k := roundWord (fdiv x cfg.tau)
  let r := fsub x (fmul k cfg.tau)
  oddpoly cfg.sinC (foldHalfPi cfg r)

/-- `COS(x) = SIN(x + HALF_PI)` (R181). -/
def cosWord (cfg : Cfg) (x : Word) : Word := sinWord cfg (fadd x cfg.halfPi)

/-- `TAN(x)`: the quotient of sine and cosine, +0 where `|cos x| < EPS_TAN` (R182). -/
def tanWord (cfg : Cfg) (x : Word) : Word :=
  let s := sinWord cfg x
  let c := cosWord cfg x
  if flt (absWord c) cfg.epsTan then posZero else fdiv s c

/-- `ATAN(x)`: the reciprocal identity above 1, the odd polynomial, the sign restored by exclusive or (R183). -/
def atanWord (cfg : Cfg) (x : Word) : Word :=
  let a := absWord x
  let inv := flt one a
  let a := if inv then fdiv one a else a
  let p := oddpoly cfg.atanC a
  let p := if inv then fsub cfg.halfPi p else p
  p ^^^ signWord x

/-- `ATAN2(y, x)`: the axis cases, then the quotient with the quadrant correction (R184). -/
def atan2Word (cfg : Cfg) (y x : Word) : Word :=
  if feq x posZero then
    if flt posZero y then cfg.halfPi
    else if flt y posZero then fneg cfg.halfPi
    else posZero
  else
    let a := atanWord cfg (fdiv y x)
    if flt x posZero then
      if fle posZero y then fadd a cfg.pi else fsub a cfg.pi
    else a

/-- `ASIN(x)`: clamped to [-1, 1], then `ATAN(c / SQRT(1 - c*c))` (R185). -/
def asinWord (cfg : Cfg) (x : Word) : Word :=
  let c := clampWord x minusOne one
  atanWord cfg (fdiv c (sqrtWord cfg (fsub one (fmul c c))))

/-- `ACOS(x) = HALF_PI - ASIN(x)` (R186). -/
def acosWord (cfg : Cfg) (x : Word) : Word := fsub cfg.halfPi (asinWord cfg x)

/-- `DEG2RAD(x)` (R187). -/
def deg2RadWord (cfg : Cfg) (x : Word) : Word := fmul x cfg.deg2radK

/-- `RAD2DEG(x)` (R188). -/
def rad2DegWord (cfg : Cfg) (x : Word) : Word := fmul x cfg.rad2degK

/-- `SIN x` (R180). -/
def execSin (x : Word) (s : State) : Host.Outcome State Fault Refusal := respond (sinWord s.cfg x) s

/-- `COS x` (R181). -/
def execCos (x : Word) (s : State) : Host.Outcome State Fault Refusal := respond (cosWord s.cfg x) s

/-- `TAN x` (R182). -/
def execTan (x : Word) (s : State) : Host.Outcome State Fault Refusal := respond (tanWord s.cfg x) s

/-- `ATAN x` (R183). -/
def execAtan (x : Word) (s : State) : Host.Outcome State Fault Refusal := respond (atanWord s.cfg x) s

/-- `ATAN2 y, x` (R184). -/
def execAtan2 (y x : Word) (s : State) : Host.Outcome State Fault Refusal := respond (atan2Word s.cfg y x) s

/-- `ASIN x` (R185). -/
def execAsin (x : Word) (s : State) : Host.Outcome State Fault Refusal := respond (asinWord s.cfg x) s

/-- `ACOS x` (R186). -/
def execAcos (x : Word) (s : State) : Host.Outcome State Fault Refusal := respond (acosWord s.cfg x) s

/-- `DEG2RAD x` (R187). -/
def execDeg2Rad (x : Word) (s : State) : Host.Outcome State Fault Refusal := respond (deg2RadWord s.cfg x) s

/-- `RAD2DEG x` (R188). -/
def execRad2Deg (x : Word) (s : State) : Host.Outcome State Fault Refusal := respond (rad2DegWord s.cfg x) s

end Sys2Proof.Machine
end

