-- ==== Sys2Proof/Machine/Dispatch.lean ====
section
/-! DEFINITION. exec: one arm per command, each one call of the command's meaning. -/

namespace Sys2Proof.Machine

def exec (i : Instr) (s : State) : Host.Outcome State Fault Refusal :=
  match i with
  | .tobits x => Sys2Proof.Machine.execToBits x s
  | .frombits u => Sys2Proof.Machine.execFromBits u s
  | .abs x => Sys2Proof.Machine.execAbs x s
  | .sign x => Sys2Proof.Machine.execSign x s
  | .copysign x y => Sys2Proof.Machine.execCopySign x y s
  | .isnear a b tol => Sys2Proof.Machine.execIsNear a b tol s
  | .isnan x => Sys2Proof.Machine.execIsNan x s
  | .isinf x => Sys2Proof.Machine.execIsInf x s
  | .floor x => Sys2Proof.Machine.execFloor x s
  | .ceil x => Sys2Proof.Machine.execCeil x s
  | .round x => Sys2Proof.Machine.execRound x s
  | .fract x => Sys2Proof.Machine.execFract x s
  | .fmod x y => Sys2Proof.Machine.execFmod x y s
  | .mod x y => Sys2Proof.Machine.execMod x y s
  | .invsqrt x => Sys2Proof.Machine.execInvSqrt x s
  | .sqrt x => Sys2Proof.Machine.execSqrt x s
  | .hypot x y => Sys2Proof.Machine.execHypot x y s
  | .log x => Sys2Proof.Machine.execLog x s
  | .log2 x => Sys2Proof.Machine.execLog2 x s
  | .exp x => Sys2Proof.Machine.execExp x s
  | .pow x y => Sys2Proof.Machine.execPow x y s
  | .sin x => Sys2Proof.Machine.execSin x s
  | .cos x => Sys2Proof.Machine.execCos x s
  | .tan x => Sys2Proof.Machine.execTan x s
  | .atan x => Sys2Proof.Machine.execAtan x s
  | .atan2 y x => Sys2Proof.Machine.execAtan2 y x s
  | .asin x => Sys2Proof.Machine.execAsin x s
  | .acos x => Sys2Proof.Machine.execAcos x s
  | .deg2rad x => Sys2Proof.Machine.execDeg2Rad x s
  | .rad2deg x => Sys2Proof.Machine.execRad2Deg x s
  | .lerp a b t => Sys2Proof.Machine.execLerp a b t s
  | .invlerp a b v => Sys2Proof.Machine.execInvLerp a b v s
  | .remap a b c d v => Sys2Proof.Machine.execRemap a b c d v s
  | .step edge x => Sys2Proof.Machine.execStep edge x s
  | .smoothstep e0 e1 x => Sys2Proof.Machine.execSmoothStep e0 e1 x s
  | .smootherstep e0 e1 x => Sys2Proof.Machine.execSmootherStep e0 e1 x s
  | .clamp x lo hi => Sys2Proof.Machine.execClamp x lo hi s
  | .min a b => Sys2Proof.Machine.execMin a b s
  | .max a b => Sys2Proof.Machine.execMax a b s

end Sys2Proof.Machine
end

