-- ==== Sys2Proof/Machine/Sequencer.lean ====
section
/-! DEFINITION. One event of the unit. While reset is asserted nothing is accepted and nothing answered (R250, R251); else
the unit accepts the oldest presented request, or answers the oldest command in flight, or does neither, as its own
unconstrained pace has it (R63, R65, R254; notes/assumptions/4.md). -/

namespace Sys2Proof.Machine

/-- A command is carried out: a legal one is executed, an illegal one raises `IllegalCommand` (R78, R230). -/
def answerFrame (f : Frame) (s : State) : Host.Outcome State Fault Refusal :=
  match decode f with
  | .ok i => exec i s
  | .error _ => raiseFault .illegalCommand s

/-- The oldest command in flight leaves the queue and is answered (R63). Nothing happens where none is in flight. -/
def answerOldest (s : State) : Host.Outcome State Fault Refusal :=
  match s.inFlight with
  | [] => .next s
  | f :: fs => answerFrame f { s with inFlight := fs }

/-- What the unit does when its pace leaves it free: answer what is in flight, else accept, else idle. -/
def eager (s : State) : Host.Outcome State Fault Refusal :=
  match s.inFlight with
  | [] => .next s.acceptOldest
  | _ :: _ => answerOldest s

/-- One event outside reset. -/
def advance (s : State) : Host.Outcome State Fault Refusal :=
  match s.pace with
  | [] => eager s
  | .accept :: p => .next (State.acceptOldest { s with pace := p })
  | .answer :: p => answerOldest { s with pace := p }
  | .wait :: p => .next { s with pace := p }

/-- One event: while reset is asserted the unit only drops what is in flight (R250, R251). -/
def event (s : State) : Host.Outcome State Fault Refusal := if s.rst then .next s.dropInFlight else advance s

end Sys2Proof.Machine
end

