-- ==== Sys2Proof/Machine/Step.lean ====
section
/-! DEFINITION. The step function, and the place it takes its next command from. -/

namespace Sys2Proof.Machine

/-- One step of the machine: one event of the unit. -/
def step (s : State) : Host.Outcome State Fault Refusal := event s

/-- The state in which the very next step answers exactly the frame whose low `nbits` bits are `w`: that frame is the
oldest command in flight, reset is released and the unit's pace leaves it free to answer (notes/assumptions/7.md). -/
def State.withFetchWord (s : State) (nbits w : Nat) : State :=
  { s with rst := false, pace := [], inFlight := frameOfNat (w % 2 ^ nbits) :: s.inFlight }

end Sys2Proof.Machine
end

