-- ==== Sys2Proof/Machine/Transaction.lean ====
section
/-! DEFINITION. The ZMC as a function from a request to its response: the response is a pure function of its own request
and of `CFG` (R24), so one request has one response whatever else the unit holds. -/

namespace Sys2Proof.Machine

/-- `NAME(args)`: the result word a command's rule gives for its operand words (R12, R24). -/
def resultOf (cfg : Cfg) (i : Instr) : Word :=
  match i with
  | .tobits x => toBitsWord x
  | .frombits u => fromBitsWord u
  | .abs x => absWord x
  | .sign x => signOfWord x
  | .copysign x y => copySignWord x y
  | .isnear a b tol => isNearWord a b tol
  | .isnan x => isNanWord x
  | .isinf x => isInfWord x
  | .floor x => floorWord x
  | .ceil x => ceilWord x
  | .round x => roundWord x
  | .fract x => fractWord x
  | .fmod x y => fmodWord cfg x y
  | .mod x y => modWord cfg x y
  | .invsqrt x => invSqrtWord cfg x
  | .sqrt x => sqrtWord cfg x
  | .hypot x y => hypotWord cfg x y
  | .log x => logWord cfg x
  | .log2 x => log2Word cfg x
  | .exp x => expWord cfg x
  | .pow x y => powWord cfg x y
  | .sin x => sinWord cfg x
  | .cos x => cosWord cfg x
  | .tan x => tanWord cfg x
  | .atan x => atanWord cfg x
  | .atan2 y x => atan2Word cfg y x
  | .asin x => asinWord cfg x
  | .acos x => acosWord cfg x
  | .deg2rad x => deg2RadWord cfg x
  | .rad2deg x => rad2DegWord cfg x
  | .lerp a b t => lerpWord a b t
  | .invlerp a b v => invLerpWord a b v
  | .remap a b c d v => remapWord a b c d v
  | .step edge x => stepWord edge x
  | .smoothstep e0 e1 x => smoothStepWord e0 e1 x
  | .smootherstep e0 e1 x => smootherStepWord e0 e1 x
  | .clamp x lo hi => clampWord x lo hi
  | .min a b => minWord a b
  | .max a b => maxWord a b

/-- The response to a request (R24, R74, R230). -/
def responseTo (cfg : Cfg) (f : Frame) : Response :=
  match decode f with
  | .ok i => ⟨resultOf cfg i, faultClear⟩
  | .error _ => ⟨0x00000000, faultSet⟩

/-- The responses to a list of requests, in request order (R63). -/
def responsesTo (cfg : Cfg) (fs : List Frame) : List Response := fs.map (responseTo cfg)

end Sys2Proof.Machine
end

