-- ==== Sys2Proof/Machine/Assembler.lean ====
section
/-! DEFINITION. The host's side of a program: the assembler syntax of R79 on its syntax tree (the characters of a line are
not modelled, notes/assumptions/14.md), and the host that runs a listing, copying earlier results into later operands (R42,
R44, R79). -/

namespace Sys2Proof.Machine

/-- An operand of an assembler line (R79). -/
inductive AsmOperand where
  /-- A hexadecimal word, taken as it is. -/
  | hex (w : Word)
  /-- A decimal literal: sign, digits as a number, power of ten; `1.5` is `decimal false 15 (-1)`. -/
  | decimal (neg : Bool) (digits : Nat) (exp10 : Int)
  /-- `+inf`. -/
  | plusInf
  /-- `-inf`. -/
  | minusInf
  /-- `qnan`. -/
  | quietNaN
  /-- `%k`: the result word of the `k`-th command of the listing, counting from 0. -/
  | result (k : Nat)
deriving DecidableEq, Repr

/-- A line of assembler: a mnemonic and its operands (R79). -/
structure AsmLine where
  mnemonic : String
  operands : List AsmOperand
deriving DecidableEq, Repr

/-- The binary32 number nearest to `digits * 10^exp10`, ties to even, with the literal's sign (R79). -/
def decimalWord (neg : Bool) (digits : Nat) (exp10 : Int) : Word :=
  if 0 ≤ exp10 then roundTo neg (digits * 10 ^ exp10.toNat * 2 ^ 149) 1
  else roundTo neg (digits * 2 ^ 149) (10 ^ (-exp10).toNat)

/-- The word an operand stands for, given the results so far; none for a reference to a result that is not there. -/
def asmWord (results : List Word) : AsmOperand → Option Word
  | .hex w => some w
  | .decimal neg digits exp10 => some (decimalWord neg digits exp10)
  | .plusInf => some posInf
  | .minusInf => some negInf
  | .quietNaN => some qnan
  | .result k => results[k]?

/-- The frame of a line: `CMD`, the operand words in the order `A` to `E`, unused words zero; none where the mnemonic is not
in the table or the number of operands is not the format's (R72, R79). -/
def assemble (results : List Word) (l : AsmLine) : Option Frame :=
  match opcodeTable.find? (fun row => row.mnemonic == l.mnemonic) with
  | none => none
  | some row =>
    match l.operands.mapM (asmWord results) with
    | none => none
    | some ws =>
      if ws.length = row.format.arity then
        some ⟨row.cmd, ws.getD 0 0, ws.getD 1 0, ws.getD 2 0, ws.getD 3 0, ws.getD 4 0⟩
      else none

/-- The host runs a listing: it assembles a line with the results so far, sends the request, waits for the response (R253) and
goes on. The responses in order, or none where a line does not assemble. -/
def runListing (cfg : Cfg) : List AsmLine → List Response → Option (List Response)
  | [], done => some done
  | l :: ls, done =>
    match assemble (done.map Response.r) l with
    | none => none
    | some f => runListing cfg ls (done ++ [responseTo cfg f])

end Sys2Proof.Machine
end

