-- ==== Sys2Proof/Safety.lean ====
section
/-! DEFINITION. The terms claims are stated in: the rational number a finite word stands for (R11) and correct rounding of
a rational (R17), both written from the spec's tables and not from the model's arithmetic; what it is for a command to
complete; and what the unit still owes the host. -/

namespace Sys2Proof.Safety

open Sys2Proof.Machine

/-- The classes zero, subnormal and normal of R11: `E(w) != 255`. -/
def isFinite (w : Word) : Bool := expField w != 255

/-- `val(w)` of a finite word, as the table of R11 writes it. -/
def realVal (w : Word) : ℚ :=
  (if signBit w then -1 else 1) *
    (if expField w = 0 then (mantissa w : ℚ) * (2 : ℚ) ^ (-149 : ℤ)
     else (1 + (mantissa w : ℚ) * (2 : ℚ) ^ (-23 : ℤ)) * (2 : ℚ) ^ ((expField w : ℤ) - 127))

/-- The value of a word that is not a NaN, in the rationals extended by `-Inf` and `+Inf` (R11, R21). -/
def extVal (w : Word) : WithBot (WithTop ℚ) :=
  if isInf w then (if signBit w then ⊥ else ((⊤ : WithTop ℚ) : WithBot (WithTop ℚ)))
  else ((realVal w : WithTop ℚ) : WithBot (WithTop ℚ))

/-- The least magnitude that rounds to 2^128 or more: half a unit in the last place below 2^128 (R17). -/
def overflowBound : ℚ := (2 : ℚ) ^ 128 - (2 : ℚ) ^ 103

/-- `w` is the real number `x` rounded once to binary32, to nearest, ties to even, overflowing to the signed infinity
(R17). The sign of a zero is not said here: R18 says it. -/
def RoundsTo (x : ℚ) (w : Word) : Prop :=
  if overflowBound ≤ |x| then w = (if x < 0 then 0xFF800000 else 0x7F800000)
  else isFinite w = true ∧ (∀ v, isFinite v = true → |realVal w - x| ≤ |realVal v - x|) ∧
    (∀ v, isFinite v = true → |realVal v - x| = |realVal w - x| → realVal v ≠ realVal w → mantissa w % 2 = 0)

/-- The command completes with the result word `r`: one response `(r, F = 0)` joins the response channel and nothing else of
the state changes (R12, R24, R74). -/
def Answers (i : Instr) (s : State) (r : Word) : Prop :=
  exec i s = .next { s with responses := s.responses ++ [⟨r, false⟩] }

/-- The next step answers the frame `f`, with `rest` in flight behind it: reset is released, `f` is the oldest command in
flight and the unit's pace has it answer. -/
def AboutToAnswer (s : State) (f : Frame) (rest : List Frame) : Prop :=
  s.rst = false ∧ s.inFlight = f :: rest ∧ (s.pace = [] ∨ ∃ p, s.pace = .answer :: p)

/-- The responses the host is to get from here on, in order, unless reset intervenes: those pending, then those to the
commands in flight, then those to the requests presented (R63, R65). -/
def ledger (s : State) : List Response := s.responses ++ (s.inFlight ++ s.requests).map (responseTo s.cfg)

/-- Every pending response has `R = 0` where `F = 1` (R74). -/
def responsesWellFormed (s : State) : Prop := ∀ x ∈ s.responses, x.f = true → x.r = 0

/-- The unit is idle: nothing in flight, no response pending, reset released (R250). -/
def quiet (s : State) : Prop := s.rst = false ∧ s.inFlight = [] ∧ s.responses = []

/-- The 39 legal command words, as R77 lists them. -/
def legalCommandWords : List Word :=
  [0x00000001, 0x00000002,
   0x00000010, 0x00000011, 0x00000012, 0x00000013, 0x00000014, 0x00000015,
   0x00000020, 0x00000021, 0x00000022, 0x00000023, 0x00000024, 0x00000025,
   0x00000030, 0x00000031, 0x00000032,
   0x00000040, 0x00000041, 0x00000042, 0x00000043,
   0x00000050, 0x00000051, 0x00000052, 0x00000053, 0x00000054, 0x00000055, 0x00000056, 0x00000057, 0x00000058,
   0x00000060, 0x00000061, 0x00000062, 0x00000063, 0x00000064, 0x00000065, 0x00000066, 0x00000067, 0x00000068]

/-- The table of R77 with the formats of R72: mnemonic, command word, number of operand words. -/
def commandTable : List (String × Word × Nat) :=
  [("TOBITS", 0x00000001, 1), ("FROMBITS", 0x00000002, 1),
   ("ABS", 0x00000010, 1), ("SIGN", 0x00000011, 1), ("COPYSIGN", 0x00000012, 2),
   ("ISNEAR", 0x00000013, 3), ("ISNAN", 0x00000014, 1), ("ISINF", 0x00000015, 1),
   ("FLOOR", 0x00000020, 1), ("CEIL", 0x00000021, 1), ("ROUND", 0x00000022, 1),
   ("FRACT", 0x00000023, 1), ("FMOD", 0x00000024, 2), ("MOD", 0x00000025, 2),
   ("INVSQRT", 0x00000030, 1), ("SQRT", 0x00000031, 1), ("HYPOT", 0x00000032, 2),
   ("LOG", 0x00000040, 1), ("LOG2", 0x00000041, 1), ("EXP", 0x00000042, 1),
   ("POW", 0x00000043, 2),
   ("SIN", 0x00000050, 1), ("COS", 0x00000051, 1), ("TAN", 0x00000052, 1),
   ("ATAN", 0x00000053, 1), ("ATAN2", 0x00000054, 2), ("ASIN", 0x00000055, 1),
   ("ACOS", 0x00000056, 1), ("DEG2RAD", 0x00000057, 1), ("RAD2DEG", 0x00000058, 1),
   ("LERP", 0x00000060, 3), ("INVLERP", 0x00000061, 3), ("REMAP", 0x00000062, 5),
   ("STEP", 0x00000063, 2), ("SMOOTHSTEP", 0x00000064, 3), ("SMOOTHERSTEP", 0x00000065, 3),
   ("CLAMP", 0x00000066, 3), ("MIN", 0x00000067, 2), ("MAX", 0x00000068, 2)]

end Sys2Proof.Safety
end

