-- ==== Sys2Proof/Certificates/Slice0/Obligations.lean ====
section
/-! DEFINITION. The statements for the provers. Each docstring names the rule of spec/ it formalises; `Answers i s r` says
that the command `i` completes at the state `s` with the result word `r` and that nothing else of the state changes, so every
statement with it is also a frame statement. Statements hold for every constant store `CFG` unless they name `cfgRef`. -/

open Sys2Proof Sys2Proof.Machine Sys2Proof.Safety

/-! ### Encoding -/

/-- R70 to R72, R77, R79: decoding the encoding of a well-formed command gives it back, for every value of every operand word;
a decoded command has the frame's command word and the frame's used operand words; and an assembled frame (unused operand words
zero) is the encoding of the command it decodes to. -/
def Obligations.DecodeEncodeRoundTrip : Prop :=
  (∀ i : Instr, i.wellFormed = true → decode (encode i) = .ok i) ∧
  (∀ (f : Frame) (i : Instr), decode f = .ok i → (encode i).cmd = f.cmd ∧ i.operands = f.usedOperands) ∧
  (∀ (f : Frame) (i : Instr), f.assembled = true → decode f = .ok i → encode i = f)

/-- R78: a command word is legal if and only if it is one of the 39 values of R77, for all 2^32 of them; every other one
raises `IllegalCommand`, whatever the operand words. -/
def Obligations.LegalExactlyThe39CommandWords : Prop :=
  ∀ f : Frame, ((∃ i, decode f = .ok i) ↔ f.cmd ∈ legalCommandWords) ∧
    (f.cmd ∉ legalCommandWords → ∀ s : State, answerFrame f s = .next { s with responses := s.responses ++ [⟨0, true⟩] })

/-- R72, R77: each of the 39 words of R77's table, written out, decodes to the command it stands for, with the operand words of the
frame in the order of R72, whatever they are; two illegal words, one for each of the decoder's reasons, are refused by name. -/
def Obligations.SampleWordsDecode : Prop := ∀ a b c d e : Word,
  decode ⟨0x00000001, a, b, c, d, e⟩ = .ok (.tobits a) ∧
  decode ⟨0x00000002, a, b, c, d, e⟩ = .ok (.frombits a) ∧
  decode ⟨0x00000010, a, b, c, d, e⟩ = .ok (.abs a) ∧
  decode ⟨0x00000011, a, b, c, d, e⟩ = .ok (.sign a) ∧
  decode ⟨0x00000012, a, b, c, d, e⟩ = .ok (.copysign a b) ∧
  decode ⟨0x00000013, a, b, c, d, e⟩ = .ok (.isnear a b c) ∧
  decode ⟨0x00000014, a, b, c, d, e⟩ = .ok (.isnan a) ∧
  decode ⟨0x00000015, a, b, c, d, e⟩ = .ok (.isinf a) ∧
  decode ⟨0x00000020, a, b, c, d, e⟩ = .ok (.floor a) ∧
  decode ⟨0x00000021, a, b, c, d, e⟩ = .ok (.ceil a) ∧
  decode ⟨0x00000022, a, b, c, d, e⟩ = .ok (.round a) ∧
  decode ⟨0x00000023, a, b, c, d, e⟩ = .ok (.fract a) ∧
  decode ⟨0x00000024, a, b, c, d, e⟩ = .ok (.fmod a b) ∧
  decode ⟨0x00000025, a, b, c, d, e⟩ = .ok (.mod a b) ∧
  decode ⟨0x00000030, a, b, c, d, e⟩ = .ok (.invsqrt a) ∧
  decode ⟨0x00000031, a, b, c, d, e⟩ = .ok (.sqrt a) ∧
  decode ⟨0x00000032, a, b, c, d, e⟩ = .ok (.hypot a b) ∧
  decode ⟨0x00000040, a, b, c, d, e⟩ = .ok (.log a) ∧
  decode ⟨0x00000041, a, b, c, d, e⟩ = .ok (.log2 a) ∧
  decode ⟨0x00000042, a, b, c, d, e⟩ = .ok (.exp a) ∧
  decode ⟨0x00000043, a, b, c, d, e⟩ = .ok (.pow a b) ∧
  decode ⟨0x00000050, a, b, c, d, e⟩ = .ok (.sin a) ∧
  decode ⟨0x00000051, a, b, c, d, e⟩ = .ok (.cos a) ∧
  decode ⟨0x00000052, a, b, c, d, e⟩ = .ok (.tan a) ∧
  decode ⟨0x00000053, a, b, c, d, e⟩ = .ok (.atan a) ∧
  decode ⟨0x00000054, a, b, c, d, e⟩ = .ok (.atan2 a b) ∧
  decode ⟨0x00000055, a, b, c, d, e⟩ = .ok (.asin a) ∧
  decode ⟨0x00000056, a, b, c, d, e⟩ = .ok (.acos a) ∧
  decode ⟨0x00000057, a, b, c, d, e⟩ = .ok (.deg2rad a) ∧
  decode ⟨0x00000058, a, b, c, d, e⟩ = .ok (.rad2deg a) ∧
  decode ⟨0x00000060, a, b, c, d, e⟩ = .ok (.lerp a b c) ∧
  decode ⟨0x00000061, a, b, c, d, e⟩ = .ok (.invlerp a b c) ∧
  decode ⟨0x00000062, a, b, c, d, e⟩ = .ok (.remap a b c d e) ∧
  decode ⟨0x00000063, a, b, c, d, e⟩ = .ok (.step a b) ∧
  decode ⟨0x00000064, a, b, c, d, e⟩ = .ok (.smoothstep a b c) ∧
  decode ⟨0x00000065, a, b, c, d, e⟩ = .ok (.smootherstep a b c) ∧
  decode ⟨0x00000066, a, b, c, d, e⟩ = .ok (.clamp a b c) ∧
  decode ⟨0x00000067, a, b, c, d, e⟩ = .ok (.min a b) ∧
  decode ⟨0x00000068, a, b, c, d, e⟩ = .ok (.max a b) ∧
  decode ⟨0x00000110, a, b, c, d, e⟩ = .error .reservedBits ∧
  decode ⟨0x00000069, a, b, c, d, e⟩ = .error .unassignedOpcode

/-- R79: a line with a mnemonic of R77 and as many operands as its format uses, each of which stands for a word, is accepted and
gives the frame of that mnemonic's command word, those operand words in the order `A` to `E`, and zeros; whatever line is accepted
is such a line (that any other gives no frame is the model's choice, notes/assumptions/14.md), and its frame is assembled. A
hexadecimal word stands for itself, the names for `+Inf`, `-Inf` and `QNAN`, `%k` for the `k`-th result. -/
def Obligations.AssemblerWritesAssembledFrames : Prop :=
  (∀ (results ws : List Word) (l : AsmLine) (cmd : Word) (n : Nat), (l.mnemonic, cmd, n) ∈ commandTable →
    l.operands.mapM (asmWord results) = some ws → ws.length = n →
    assemble results l = some ⟨cmd, ws.getD 0 0, ws.getD 1 0, ws.getD 2 0, ws.getD 3 0, ws.getD 4 0⟩) ∧
  (∀ (results : List Word) (l : AsmLine) (f : Frame), assemble results l = some f →
    (l.mnemonic, f.cmd, l.operands.length) ∈ commandTable ∧ f.assembled = true ∧
      l.operands.mapM (asmWord results) = some f.usedOperands) ∧
  (∀ (results : List Word) (w : Word) (k : Nat),
    asmWord results (.hex w) = some w ∧ asmWord results .plusInf = some 0x7F800000 ∧
    asmWord results .minusInf = some 0xFF800000 ∧ asmWord results .quietNaN = some 0x7FC00000 ∧
    asmWord results (.result k) = results[k]?) ∧
  (∀ (results : List Word) (neg : Bool) (digits : Nat) (exp10 : Int),
    asmWord results (.decimal neg digits exp10) = some (decimalWord neg digits exp10))

/-- R79: a decimal literal stands for the binary32 number nearest its value, ties to even, and keeps its sign, also where that
number is zero: `-0.0` is `0x80000000`. -/
def Obligations.DecimalLiteralIsNearest : Prop :=
  ∀ (neg : Bool) (digits : Nat) (exp10 : Int),
    RoundsTo ((if neg then -1 else 1) * (digits : ℚ) * (10 : ℚ) ^ exp10) (decimalWord neg digits exp10) ∧
    signBit (decimalWord neg digits exp10) = neg

/-! ### The machine: steps, order, reset -/

/-- A step runs the decoded command: when the frame about to be answered decodes to `i`, the step is exec of `i` at the state
with that frame gone from the commands in flight; a frame that decodes to no command is answered the same way, by the fault. The
unit's pace, in AboutToAnswer and in the next state, is the model's own field (notes/assumptions/4.md). -/
def Obligations.StepRunsDecodedCommand : Prop :=
  ∀ (s : State) (f : Frame) (rest : List Frame), AboutToAnswer s f rest →
    (∀ i : Instr, decode f = .ok i → step s = exec i { s with inFlight := rest, pace := s.pace.tail }) ∧
    step s = answerFrame f { s with inFlight := rest, pace := s.pace.tail }

/-- R230: a command word outside the 39 is answered with `R = 0`, `F = 1`, whatever its operand words, as one response behind
those already there, and nothing else is recorded or changed; a command word of the 39 is answered with `F = 0`, whatever was
answered before it. -/
def Obligations.IllegalCommandIsAnsweredWithFault : Prop :=
  ∀ (s : State) (f : Frame),
    (f.cmd ∉ legalCommandWords → answerFrame f s = .next { s with responses := s.responses ++ [⟨0, true⟩] }) ∧
    (f.cmd ∈ legalCommandWords → ∃ r, answerFrame f s = .next { s with responses := s.responses ++ [⟨r, false⟩] })

/-- R24: the response depends on the command word, on the operand words the command uses and on `CFG`, and on nothing else:
two states with the same `CFG`, however they differ otherwise, answer frames alike in those with the same one response. -/
def Obligations.ResponseDependsOnRequestAlone : Prop :=
  ∀ (s t : State) (f g : Frame), s.cfg = t.cfg → f.cmd = g.cmd → f.usedOperands = g.usedOperands →
    ∃ x, answerFrame f s = .next { s with responses := s.responses ++ [x] } ∧
      answerFrame g t = .next { t with responses := t.responses ++ [x] }

/-- R25, R230, R231: no step ever stops the machine, in any state. -/
def Obligations.StepNeverStops : Prop := ∀ s : State, ∃ t, step s = .next t

/-- R231: a legal command never faults: at every state and for every operand word of every command, exec answers a next state,
which has one more response, with `F = 0`, and is otherwise the same. -/
def Obligations.LegalCommandNeverFaults : Prop := ∀ (i : Instr) (s : State), ∃ r, Answers i s r

/-- R47: no step writes the constant store, and neither does any of the host's actions, reset among them. That these are
operations beside the step is the model's choice (notes/assumptions/2.md). -/
def Obligations.ConstantStoreNeverWritten : Prop :=
  (∀ s t : State, step s = .next t → t.cfg = s.cfg) ∧
  (∀ (s : State) (f : Frame), (s.present f).cfg = s.cfg ∧ s.assertReset.cfg = s.cfg ∧ s.releaseReset.cfg = s.cfg) ∧
  (∀ (s t : State) (x : Response), s.takeResponse = some (x, t) → t.cfg = s.cfg)

/-- R63, R65: outside reset, every step keeps the ledger: the responses pending, then the responses to the commands in flight, then
those to the requests presented. So the k-th response delivered is the response to the k-th request accepted, none is lost,
repeated or reordered, whatever the unit's pace. The channels as lists and the pace are the model's choices
(notes/assumptions/2.md, notes/assumptions/4.md). -/
def Obligations.StepKeepsLedger : Prop :=
  ∀ (s t : State) (l : List Response), s.rst = false ∧ ledger s = l → step s = .next t → t.rst = false ∧ ledger t = l

/-- R74, R230: every step keeps the form of the pending responses, `R = 0` wherever `F = 1`. -/
def Obligations.StepKeepsResponseForm : Prop :=
  ∀ s t : State, responsesWellFormed s → step s = .next t → responsesWellFormed t

/-- R50, R250: after reset no request is presented, no command is in flight, no response is pending, reset is released, the
pending responses have their form, and the unit stays as it is. `CFG` is `CFG_REF` (notes/assumptions/1.md) and the pace is empty
(notes/assumptions/4.md): the model's choices. -/
def Obligations.ResetIsIdle : Prop :=
  quiet State.reset ∧ State.reset.requests = [] ∧ responsesWellFormed State.reset ∧ State.reset.cfg = cfgRef ∧
    State.reset.pace = [] ∧ step State.reset = .next State.reset

/-- R65, R254: outside reset every accepted request is answered after finitely many steps, in order, whatever the unit's pace.
More than these rules say, and the model's choice: that every request PRESENTED comes to be accepted, and that the answers come
while the host takes no response, the proviso of R65 and R254 (notes/assumptions/2.md); and the bound, one step per entry of the
pace, one per command in flight and two per request presented (notes/assumptions/4.md). -/
def Obligations.EveryRequestIsAnswered : Prop :=
  ∀ s : State, s.rst = false →
    ∃ t : State, Host.Core.run Sys2Proof.core (s.pace.length + s.inFlight.length + 2 * s.requests.length) s = .next t ∧
      t.inFlight = [] ∧ t.requests = [] ∧ t.cfg = s.cfg ∧
      t.responses = s.responses ++ (s.inFlight ++ s.requests).map (responseTo s.cfg)

/-- R250, R251: however long reset is asserted, nothing is in flight and no response is presented, no request is accepted (a
request presented meanwhile stays presented, behind those presented before: the model's choice, notes/assumptions/2.md,
notes/assumptions/17.md), and `CFG` is as before. -/
def Obligations.NothingHappensUnderReset : Prop :=
  ∀ (s : State) (f : Frame) (k : Nat),
    ∃ t : State, Host.Core.run Sys2Proof.core k (s.assertReset.present f) = .next t ∧
      t.inFlight = [] ∧ t.responses = [] ∧ t.requests = s.requests ++ [f] ∧ t.cfg = s.cfg ∧ t.rst = true

/-- R250, R251: after reset is released the unit is idle and the first request is answered as a function of that request and
`CFG` alone: whatever was in flight or pending at any two units with the same `CFG` leaves no trace. The model's choices: the pace,
its own field, which is the same in both units and which reset keeps, with the bound on the steps taken from it
(notes/assumptions/4.md); and the list of requests presented, which reset keeps and which is empty here, with the host's actions
as operations beside the step (notes/assumptions/2.md, notes/assumptions/17.md). -/
def Obligations.ResetLeavesNoTrace : Prop :=
  ∀ (s t : State) (f : Frame), s.cfg = t.cfg → s.requests = [] → t.requests = [] → s.pace = t.pace →
    quiet s.assertReset.releaseReset ∧ s.assertReset.releaseReset = t.assertReset.releaseReset ∧
    ∃ u : State, Host.Core.run Sys2Proof.core (s.pace.length + 2) (s.assertReset.releaseReset.present f) = .next u ∧
      u.responses = [responseTo s.cfg f] ∧ u.inFlight = [] ∧ u.requests = []

/-- R65, R70: acceptance is one event: the oldest presented request joins the commands in flight as the youngest, and nothing
else changes. When it happens is the model's own choice, the pace (notes/assumptions/4.md), which advances; the lists of requests are the
model's too (notes/assumptions/2.md). -/
def Obligations.AcceptanceIsOneEvent : Prop :=
  ∀ (s : State) (f : Frame) (fs : List Frame), s.rst = false → s.requests = f :: fs →
    ((∃ p, s.pace = .accept :: p) ∨ (s.pace = [] ∧ s.inFlight = [])) →
    step s = .next { s with requests := fs, inFlight := s.inFlight ++ [f], pace := s.pace.tail }

/-- R42, R61, R63, R74: the host takes the oldest response, `R` and `F` together; nothing else changes. The model's choice
(notes/assumptions/2.md; R70 gives only the event of acceptance): that presenting adds a request behind those that wait, that the
channels are lists, and that both are operations beside the step. -/
def Obligations.HostPresentsAndTakesInOrder : Prop :=
  ∀ (s : State) (f : Frame) (x : Response) (xs : List Response),
    s.present f = { s with requests := s.requests ++ [f] } ∧
    (s.responses = [] → s.takeResponse = none) ∧
    (s.responses = x :: xs → s.takeResponse = some (x, { s with responses := xs }))

/-! ### Results of the 39 commands, family by family -/

/-- R91 to R93: the bit view commands answer their operand word unchanged, and are mutually inverse on all words: the result of
one sent through the other is the word. -/
def Obligations.BitViewIsInverse : Prop :=
  ∀ (s : State) (w : Word), Answers (.tobits w) s w ∧ Answers (.frombits w) s w ∧
    (∃ r t, Answers (.tobits w) s r ∧ exec (.tobits w) s = .next t ∧ Answers (.frombits r) t w) ∧
    (∃ r t, Answers (.frombits w) s r ∧ exec (.frombits w) s = .next t ∧ Answers (.tobits r) t w)

/-- R100 to R105: the results of family 1. -/
def Obligations.SignResults : Prop :=
  ∀ (s : State) (x y z : Word),
    Answers (.abs x) s (x &&& 0x7FFFFFFF) ∧
    Answers (.sign x) s
      (if flt 0x00000000 x then 0x3F800000 else if flt x 0x00000000 then 0xBF800000 else 0x00000000) ∧
    Answers (.copysign x y) s ((x &&& 0x7FFFFFFF) ||| (y &&& 0x80000000)) ∧
    Answers (.isnear x y z) s (if fle (fsub x y &&& 0x7FFFFFFF) z then 0x00000001 else 0x00000000) ∧
    Answers (.isnan x) s (if expField x = 255 ∧ mantissa x ≠ 0 then 0x00000001 else 0x00000000) ∧
    Answers (.isinf x) s (if expField x = 255 ∧ mantissa x = 0 then 0x00000001 else 0x00000000)

/-- R122 to R127: the results of family 2, the modulo commands under any `CFG.EPS_DIV`. -/
def Obligations.RoundingResults : Prop :=
  ∀ (s : State) (x y : Word),
    Answers (.floor x) s
      (if 150 ≤ expField x then x
       else if flt x (i2f (f2i x)) then fsub (i2f (f2i x)) 0x3F800000 else i2f (f2i x)) ∧
    Answers (.ceil x) s
      (if 150 ≤ expField x then x
       else if flt (i2f (f2i x)) x then fadd (i2f (f2i x)) 0x3F800000 else i2f (f2i x)) ∧
    Answers (.round x) s
      (if 150 ≤ expField x then x
       else if fle 0x00000000 x then floorWord (fadd x 0x3F000000) else ceilWord (fsub x 0x3F000000)) ∧
    Answers (.fract x) s (fsub x (floorWord x)) ∧
    Answers (.fmod x y) s
      (if flt (y &&& 0x7FFFFFFF) s.cfg.epsDiv then 0x00000000 else fsub x (fmul y (truncWord (fdiv x y)))) ∧
    Answers (.mod x y) s
      (if flt (y &&& 0x7FFFFFFF) s.cfg.epsDiv then 0x00000000 else fsub x (fmul y (floorWord (fdiv x y))))

/-- R140 to R142: the results of family 3, under any `CFG.MAGIC`. -/
def Obligations.RootResults : Prop :=
  ∀ (s : State) (x y : Word),
    (∃ y0 : Word, y0 = s.cfg.magic - (x >>> 1) ∧
      Answers (.invsqrt x) s (fmul y0 (fsub 0x3FC00000 (fmul (fmul (fmul 0x3F000000 x) y0) y0)))) ∧
    (∃ g : Word, g = fmul x (invSqrtWord s.cfg x) ∧
      Answers (.sqrt x) s (if fle x 0x00000000 then 0x00000000 else fmul 0x3F000000 (fadd g (fdiv x g)))) ∧
    (∃ mx mn : Word, mx = maxWord (x &&& 0x7FFFFFFF) (y &&& 0x7FFFFFFF) ∧
      mn = minWord (x &&& 0x7FFFFFFF) (y &&& 0x7FFFFFFF) ∧
      Answers (.hypot x y) s
        (if feq mx 0x00000000 then 0x00000000
         else fmul mx (sqrtWord s.cfg (fadd 0x3F800000 (fmul (fdiv mn mx) (fdiv mn mx))))))

/-- R160, R161, R163: the results of LOG, LOG2 and POW, under any `CFG`. -/
def Obligations.LogPowResults : Prop :=
  ∀ (s : State) (x y : Word),
    (∃ m z : Word, m = (x &&& 0x807FFFFF) ||| 0x3F800000 ∧ z = fdiv (fsub m 0x3F800000) (fadd m 0x3F800000) ∧
      Answers (.log x) s
        (if fle x 0x00000000 then 0xFF800000
         else fadd (fmul (i2f ((expField x : Int) - 127)) s.cfg.ln2) (oddpoly s.cfg.logC z))) ∧
    (∃ l : Word, Answers (.log x) s l ∧ Answers (.log2 x) s (fmul l s.cfg.invLn2) ∧
      ∃ e : Word, Answers (.exp (fmul y l)) s e ∧
        Answers (.pow x y) s (if fle x 0x00000000 then 0x00000000 else if feq y 0x00000000 then 0x3F800000 else e))

/-- R162: the result of EXP, under any `CFG`: the guards, the cubic in Horner's arrangement, and the exponent injection with its
saturation to a signed infinity or a signed zero. -/
def Obligations.ExpResult : Prop :=
  ∀ (s : State) (x : Word),
    ∃ t k r p : Word, t = fmul x s.cfg.invLn2 ∧ Answers (.round t) s k ∧ r = fsub t k ∧
      p = fadd s.cfg.expC.x0 (fmul r (fadd s.cfg.expC.x1 (fmul r (fadd s.cfg.expC.x2 (fmul r s.cfg.expC.x3))))) ∧
      Answers (.exp x) s
        (if expField x = 255 ∧ mantissa x ≠ 0 then 0x7FC00000
         else if fle 0x43800000 k then 0x7F800000
         else if fle k 0xC3800000 then 0x00000000
         else if 255 ≤ (expField p : Int) + f2i k then (if signBit p then 0xFF800000 else 0x7F800000)
         else if (expField p : Int) + f2i k ≤ 0 then (if signBit p then 0x80000000 else 0x00000000)
         else packWord (signBit p) (((expField p : Int) + f2i k).toNat * 2 ^ 23 + mantissa p))

/-- R180, R181, R182: the results of SIN, COS and TAN, under any `CFG`. -/
def Obligations.SinCosTanResults : Prop :=
  ∀ (s : State) (x : Word),
    (∃ k r : Word, Answers (.round (fdiv x s.cfg.tau)) s k ∧ r = fsub x (fmul k s.cfg.tau) ∧
      Answers (.sin x) s (oddpoly s.cfg.sinC
        (if flt s.cfg.halfPi r then fsub s.cfg.pi r
         else if flt r (fneg s.cfg.halfPi) then fsub (fneg s.cfg.pi) r else r))) ∧
    (∃ a c : Word, Answers (.sin x) s a ∧ Answers (.sin (fadd x s.cfg.halfPi)) s c ∧ Answers (.cos x) s c ∧
      Answers (.tan x) s (if flt (c &&& 0x7FFFFFFF) s.cfg.epsTan then 0x00000000 else fdiv a c))

/-- R183 to R188: the results of ATAN, ATAN2, ASIN, ACOS, DEG2RAD and RAD2DEG, under any `CFG`. -/
def Obligations.InverseTrigResults : Prop :=
  ∀ (s : State) (x y : Word),
    (∃ a p : Word, a = (if flt 0x3F800000 (x &&& 0x7FFFFFFF) then fdiv 0x3F800000 (x &&& 0x7FFFFFFF) else x &&& 0x7FFFFFFF) ∧
      p = (if flt 0x3F800000 (x &&& 0x7FFFFFFF) then fsub s.cfg.halfPi (oddpoly s.cfg.atanC a) else oddpoly s.cfg.atanC a) ∧
      Answers (.atan x) s (p ^^^ (x &&& 0x80000000))) ∧
    (∃ a : Word, Answers (.atan (fdiv y x)) s a ∧
      Answers (.atan2 y x) s
        (if feq x 0x00000000 then
          (if flt 0x00000000 y then s.cfg.halfPi else if flt y 0x00000000 then fneg s.cfg.halfPi else 0x00000000)
         else if flt x 0x00000000 then
          (if fle 0x00000000 y then fadd a s.cfg.pi else fsub a s.cfg.pi)
         else a)) ∧
    (∃ c q a : Word, Answers (.clamp x 0xBF800000 0x3F800000) s c ∧ Answers (.sqrt (fsub 0x3F800000 (fmul c c))) s q ∧
      Answers (.atan (fdiv c q)) s a ∧ Answers (.asin x) s a ∧ Answers (.acos x) s (fsub s.cfg.halfPi a)) ∧
    Answers (.deg2rad x) s (fmul x s.cfg.deg2radK) ∧ Answers (.rad2deg x) s (fmul x s.cfg.rad2degK)

/-- R210 to R218: the results of family 6, under any `CFG`. -/
def Obligations.InterpolationResults : Prop :=
  ∀ (s : State) (a b c d e : Word),
    Answers (.lerp a b c) s (fadd (fmul (fsub 0x3F800000 c) a) (fmul c b)) ∧
    Answers (.invlerp a b c) s (fdiv (fsub c a) (fsub b a)) ∧
    (∃ r q, Answers (.invlerp a b e) s r ∧ Answers (.lerp c d r) s q ∧ Answers (.remap a b c d e) s q) ∧
    Answers (.step a b) s (if flt b a then 0x00000000 else 0x3F800000) ∧
    (∃ v t, Answers (.invlerp a b c) s v ∧ Answers (.clamp v 0x00000000 0x3F800000) s t ∧
      Answers (.smoothstep a b c) s (fmul (fmul t t) (fsub 0x40400000 (fmul 0x40000000 t))) ∧
      Answers (.smootherstep a b c) s
        (fmul (fmul (fmul t t) t) (fadd (fmul t (fsub (fmul t 0x40C00000) 0x41700000)) 0x41200000))) ∧
    Answers (.clamp a b c) s (if flt a b then b else if flt c a then c else a) ∧
    Answers (.min a b) s (if flt a b then a else b) ∧
    Answers (.max a b) s (if flt b a then a else b)

/-- R219: the three worked results hold as equalities of words, under every `CFG`. -/
def Obligations.WorkedInterpolationResults : Prop :=
  ∀ s : State, Answers (.lerp 0x00000000 0x42C80000 0x3F000000) s 0x42480000 ∧
    Answers (.invlerp 0x00000000 0x42C80000 0x41C80000) s 0x3E800000 ∧
    Answers (.remap 0x00000000 0x41200000 0x00000000 0x42C80000 0x40A00000) s 0x42480000

/-! ### The arithmetic -/

/-- R11: the classes and the values of words. -/
def Obligations.ValuesOfWords : Prop :=
  ∀ w : Word,
    (expField w = 255 → mantissa w ≠ 0 → val w = .nan) ∧
    (expField w = 255 → mantissa w = 0 → val w = .inf (signBit w)) ∧
    (expField w ≠ 255 → ∃ m : Nat, val w = .fin (signBit w) m ∧
      realVal w = (if signBit w then -1 else 1) * (m : ℚ) * (2 : ℚ) ^ (-149 : ℤ))

/-- R17: the sum and the difference of two finite scalars are the exact sum and difference rounded once. -/
def Obligations.SumIsCorrectlyRounded : Prop :=
  ∀ a b : Word, isFinite a = true → isFinite b = true →
    RoundsTo (realVal a + realVal b) (fadd a b) ∧ RoundsTo (realVal a - realVal b) (fsub a b)

/-- R17: the product of two finite scalars is the exact product rounded once. -/
def Obligations.ProductIsCorrectlyRounded : Prop :=
  ∀ a b : Word, isFinite a = true → isFinite b = true → RoundsTo (realVal a * realVal b) (fmul a b)

/-- R17: the quotient of two finite scalars, the divisor not zero, is the exact quotient rounded once. -/
def Obligations.QuotientIsCorrectlyRounded : Prop :=
  ∀ a b : Word, isFinite a = true → isFinite b = true → realVal b ≠ 0 →
    RoundsTo (realVal a / realVal b) (fdiv a b)

/-- R18: signs and special operands of the four primitives, for operands that are not NaN. -/
def Obligations.SpecialOperandsOfPrimitives : Prop :=
  ∀ a b : Word, isNaN a = false → isNaN b = false →
    (isFinite a = true → isInf b = true → fadd a b = b ∧ fadd b a = b) ∧
    (isInf a = true → fadd a a = a) ∧
    (isFinite a = true → isFinite b = true → realVal a + realVal b = 0 →
      fadd a b = if a = 0x80000000 ∧ b = 0x80000000 then 0x80000000 else 0x00000000) ∧
    (fsub a b = fadd a (fneg b)) ∧
    (isNaN (fmul a b) = false → signBit (fmul a b) = (signBit a ^^ signBit b)) ∧
    (isInf a = true → (isInf b = true ∨ realVal b ≠ 0) → isInf (fmul a b) = true ∧ isInf (fmul b a) = true) ∧
    (isNaN (fdiv a b) = false → signBit (fdiv a b) = (signBit a ^^ signBit b)) ∧
    (isFinite a = true → isFinite b = true → realVal a ≠ 0 → realVal b = 0 → isInf (fdiv a b) = true) ∧
    (isInf a = true → isFinite b = true → isInf (fdiv a b) = true) ∧
    (isFinite a = true → isInf b = true → isFinite (fdiv a b) = true ∧ realVal (fdiv a b) = 0) ∧
    (isFinite a = true → isFinite b = true → realVal a = 0 → realVal b ≠ 0 →
      isFinite (fdiv a b) = true ∧ realVal (fdiv a b) = 0)

/-- R19: the primitives give one NaN only, `QNAN`; they give it for every NaN operand and for each invalid operation, and for
nothing else. -/
def Obligations.PrimitivesGiveOneNaN : Prop :=
  ∀ a b : Word,
    (fadd a b = 0x7FC00000 ↔ isNaN a = true ∨ isNaN b = true ∨
      (isInf a = true ∧ isInf b = true ∧ signBit a ≠ signBit b)) ∧
    (fsub a b = 0x7FC00000 ↔ isNaN a = true ∨ isNaN b = true ∨
      (isInf a = true ∧ isInf b = true ∧ signBit a = signBit b)) ∧
    (fmul a b = 0x7FC00000 ↔ isNaN a = true ∨ isNaN b = true ∨
      (isInf a = true ∧ isFinite b = true ∧ realVal b = 0) ∨
      (isFinite a = true ∧ realVal a = 0 ∧ isInf b = true)) ∧
    (fdiv a b = 0x7FC00000 ↔ isNaN a = true ∨ isNaN b = true ∨ (isInf a = true ∧ isInf b = true) ∨
      (isFinite a = true ∧ isFinite b = true ∧ realVal a = 0 ∧ realVal b = 0)) ∧
    (∀ r, r = fadd a b ∨ r = fsub a b ∨ r = fmul a b ∨ r = fdiv a b → isNaN r = true → r = 0x7FC00000)

/-- R20: `fneg` flips the sign bit and nothing else, for every pattern including NaN. -/
def Obligations.NegationFlipsTheSignBit : Prop :=
  ∀ (w : Word) (i : Nat), i < 32 → (fneg w).getLsbD i = if i = 31 then !w.getLsbD i else w.getLsbD i

/-- R21: the comparisons compare `val(a)` and `val(b)` as real numbers extended by the infinities, zeros of either sign equal, and
are false where an operand is NaN. -/
def Obligations.ComparisonsCompareValues : Prop :=
  ∀ a b : Word,
    (flt a b = true ↔ isNaN a = false ∧ isNaN b = false ∧ extVal a < extVal b) ∧
    (fle a b = true ↔ isNaN a = false ∧ isNaN b = false ∧ extVal a ≤ extVal b) ∧
    (feq a b = true ↔ isNaN a = false ∧ isNaN b = false ∧ extVal a = extVal b)

/-- R15, R16: `f2i` truncates toward zero, exactly, for `E < 150`; `i2f` is exact for the integers the rules give it, and
`i2f(0)` is `+0`. -/
def Obligations.ConversionsAreExact : Prop :=
  (∀ v : Word, expField v < 150 →
    f2i v = (if realVal v < 0 then ⌈realVal v⌉ else ⌊realVal v⌋) ∧ -8388607 ≤ f2i v ∧ f2i v ≤ 8388607) ∧
  (∀ i : Int, -8388607 ≤ i → i ≤ 8388607 → isFinite (i2f i) = true ∧ realVal (i2f i) = i) ∧
  i2f 0 = 0x00000000

/-! ### Properties of the commands, for all operands -/

/-- R106: `ABS(-w) = ABS(w)` for every word; `0 <= ABS(w)` for every `w` that is not NaN; for a NaN the comparison is false
although the sign bit of the result is 0. -/
def Obligations.AbsIsEvenAndNonNegative : Prop :=
  ∀ (s : State) (w : Word), ∃ r, Answers (.abs w) s r ∧ Answers (.abs (fneg w)) s r ∧ signBit r = false ∧
    (isNaN w = false → fle 0x00000000 r = true) ∧ (isNaN w = true → fle 0x00000000 r = false)

/-- R101: `SIGN` by the value: 1.0 above zero, -1.0 below, +0 for zeros of either sign and for NaN, whatever the class. -/
def Obligations.SignByValue : Prop :=
  ∀ (s : State) (w : Word),
    (isNaN w = true → Answers (.sign w) s 0x00000000) ∧
    (isNaN w = false → 0 < extVal w → Answers (.sign w) s 0x3F800000) ∧
    (isNaN w = false → extVal w < 0 → Answers (.sign w) s 0xBF800000) ∧
    (isNaN w = false → extVal w = 0 → Answers (.sign w) s 0x00000000)

/-- R76, R104, R105: `ISNAN` and `ISINF` answer the words 0 and 1 and never both 1; `ISINF` answers 1 for exactly two words. -/
def Obligations.ClassifiersAreExclusive : Prop :=
  ∀ (s : State) (w : Word), ∃ n i, Answers (.isnan w) s n ∧ Answers (.isinf w) s i ∧
    (n = 0 ∨ n = 1) ∧ (i = 0 ∨ i = 1) ∧ ¬ (n = 1 ∧ i = 1) ∧
    (i = 1 ↔ w = 0x7F800000 ∨ w = 0xFF800000) ∧ (n = 1 ↔ 0x7F800000 < (w &&& 0x7FFFFFFF))

/-- R120: the large-magnitude guard is `E(w) >= 150`; for every `w` that is not NaN it is `2^23 <= ABS(w)`; for NaN it is true where
the comparison is false; it is true of the infinities; and where it is true FLOOR, CEIL and ROUND answer the operand unchanged. -/
def Obligations.LargeMagnitudeGuard : Prop :=
  ∀ (s : State) (w : Word),
    (big w = true ↔ 150 ≤ expField w) ∧
    (isNaN w = false → big w = fle 0x4B000000 (w &&& 0x7FFFFFFF)) ∧
    (isNaN w = true → big w = true ∧ fle 0x4B000000 (w &&& 0x7FFFFFFF) = false) ∧
    (isInf w = true → big w = true) ∧
    (big w = true → Answers (.floor w) s w ∧ Answers (.ceil w) s w ∧ Answers (.round w) s w)

/-- R121: `TRUNC` is the integer part toward zero of every finite word, unchanged where the guard holds, and `+0` wherever the
magnitude is below 1. -/
def Obligations.TruncIsTowardZero : Prop :=
  ∀ w : Word,
    (150 ≤ expField w → truncWord w = w) ∧
    (isFinite w = true → isFinite (truncWord w) = true ∧
      realVal (truncWord w) = (if realVal w < 0 then (⌈realVal w⌉ : ℚ) else (⌊realVal w⌋ : ℚ))) ∧
    (isFinite w = true → |realVal w| < 1 → truncWord w = 0x00000000)

/-- R122, R123: `FLOOR` answers the largest integer not above its operand and `CEIL` the smallest not below it, exactly, for every
finite operand, with `+0` for zero. -/
def Obligations.FloorAndCeilAreExact : Prop :=
  ∀ (s : State) (w : Word), isFinite w = true →
    (∃ r, Answers (.floor w) s r ∧ isFinite r = true ∧ realVal r = (⌊realVal w⌋ : ℚ) ∧ (realVal r = 0 → r = 0x00000000)) ∧
    (∃ r, Answers (.ceil w) s r ∧ isFinite r = true ∧ realVal r = (⌈realVal w⌉ : ℚ) ∧ (realVal r = 0 → r = 0x00000000))

/-- R124: `ROUND` takes halves away from zero and leaves integers at their value, exactly. -/
def Obligations.RoundTakesHalvesAwayFromZero : Prop :=
  ∀ (s : State) (w : Word) (n : ℤ), isFinite w = true →
    (realVal w = n → ∃ r, Answers (.round w) s r ∧ isFinite r = true ∧ realVal r = n) ∧
    (realVal w = n + 1 / 2 → 0 < realVal w → ∃ r, Answers (.round w) s r ∧ isFinite r = true ∧ realVal r = n + 1) ∧
    (realVal w = n + 1 / 2 → realVal w < 0 → ∃ r, Answers (.round w) s r ∧ isFinite r = true ∧ realVal r = n)

/-- R125: `FRACT` answers `+0` for every finite operand of magnitude 2^23 or more, and `QNAN` for infinities and NaN. -/
def Obligations.FractOfLargeOperands : Prop :=
  ∀ (s : State) (w : Word),
    (isFinite w = true → 150 ≤ expField w → Answers (.fract w) s 0x00000000) ∧
    (isFinite w = false → Answers (.fract w) s 0x7FC00000)

/-- R126, R127: where `CFG.EPS_DIV` is above zero, a divisor of either zero gives `+0` whatever the dividend, NaN and infinities
included; a NaN divisor always gives `QNAN`. -/
def Obligations.ModuloGuards : Prop :=
  ∀ (s : State) (x y : Word),
    (flt 0x00000000 s.cfg.epsDiv = true → y = 0x00000000 ∨ y = 0x80000000 →
      Answers (.fmod x y) s 0x00000000 ∧ Answers (.mod x y) s 0x00000000) ∧
    (isNaN y = true → Answers (.fmod x y) s 0x7FC00000 ∧ Answers (.mod x y) s 0x7FC00000)

/-- R141, R160, R163: the sentinels, under every `CFG`: for an operand of zero or below, `-Inf` included, SQRT answers `+0`, LOG
`-Inf`, POW `+0` whatever the exponent; and SQRT and INVSQRT of a NaN answer `QNAN`. -/
def Obligations.DomainSentinels : Prop :=
  ∀ (s : State) (x y : Word),
    (isNaN x = false → extVal x ≤ 0 →
      Answers (.sqrt x) s 0x00000000 ∧ Answers (.log x) s 0xFF800000 ∧ Answers (.pow x y) s 0x00000000) ∧
    (isNaN x = false → 0 < extVal x → y = 0x00000000 ∨ y = 0x80000000 → Answers (.pow x y) s 0x3F800000) ∧
    (isNaN x = true → Answers (.sqrt x) s 0x7FC00000 ∧ Answers (.invsqrt x) s 0x7FC00000)

/-- R142: `HYPOT` does not depend on the signs of its operands or on their order, NaN apart; both zero gives `+0` and both infinite
gives `QNAN`; under every `CFG`. -/
def Obligations.HypotIsSymmetric : Prop :=
  ∀ (s : State) (x y : Word), isNaN x = false → isNaN y = false →
    (∃ r, Answers (.hypot x y) s r ∧ Answers (.hypot (fneg x) y) s r ∧ Answers (.hypot x (fneg y)) s r ∧
      Answers (.hypot y x) s r) ∧
    (isFinite x = true → isFinite y = true → realVal x = 0 → realVal y = 0 → Answers (.hypot x y) s 0x00000000) ∧
    (isInf x = true → isInf y = true → Answers (.hypot x y) s 0x7FC00000)

/-- R162: `EXP` answers `QNAN` for a NaN and never a subnormal, under every `CFG`; and where the exponent field stays inside 1 to
254 the injection is the word `p + (n << 23)`. -/
def Obligations.ExpInjection : Prop :=
  (∀ (s : State) (x : Word), (isNaN x = true → Answers (.exp x) s 0x7FC00000) ∧
    ∃ r, Answers (.exp x) s r ∧ (expField r = 0 → mantissa r = 0)) ∧
  (∀ (p : Word) (n : Int), 1 ≤ (expField p : Int) + n → (expField p : Int) + n ≤ 254 →
    injectExponent p n = p + BitVec.ofInt 32 (n * 2 ^ 23))

/-- R180 to R182: SIN, COS and TAN of an infinity or a NaN answer `QNAN`, under every `CFG`. -/
def Obligations.TrigOfNonFinite : Prop :=
  ∀ (s : State) (x : Word), isFinite x = false →
    Answers (.sin x) s 0x7FC00000 ∧ Answers (.cos x) s 0x7FC00000 ∧ Answers (.tan x) s 0x7FC00000

/-- R183: `ATAN` is exactly odd: `ATAN(fneg(w)) = fneg(ATAN(w))` for every word, under every `CFG`. -/
def Obligations.AtanIsOdd : Prop :=
  ∀ (s : State) (w : Word), ∃ r, Answers (.atan w) s r ∧ Answers (.atan (fneg w)) s (fneg r)

/-- R184: on the axis `x = 0`, either zero, `ATAN2` answers pi/2, -pi/2 or `+0` by the sign of `y`, `+0` for zeros and NaN, under
every `CFG`. -/
def Obligations.Atan2OnTheAxis : Prop :=
  ∀ (s : State) (y x : Word), x = 0x00000000 ∨ x = 0x80000000 →
    (isNaN y = false → 0 < extVal y → Answers (.atan2 y x) s s.cfg.halfPi) ∧
    (isNaN y = false → extVal y < 0 → Answers (.atan2 y x) s (fneg s.cfg.halfPi)) ∧
    (isNaN y = true ∨ extVal y = 0 → Answers (.atan2 y x) s 0x00000000)

/-- R185, R186: `ASIN` and `ACOS` clamp: every operand at or above 1, +Inf included, answers as 1.0 does, every one at or below -1 as
-1.0 does; a NaN gives `QNAN`; under every `CFG`. Under `CFG_REF` the clamped results are pi/2, -pi/2 and +0, pi exactly. -/
def Obligations.AsinClampsItsOperand : Prop :=
  ∀ (s : State) (x : Word),
    (isNaN x = false → extVal 0x3F800000 ≤ extVal x →
      (∃ r q, Answers (.asin x) s r ∧ Answers (.asin 0x3F800000) s r ∧ Answers (.acos x) s q ∧ Answers (.acos 0x3F800000) s q) ∧
      (s.cfg = cfgRef → Answers (.asin x) s 0x3FC90FDB ∧ Answers (.acos x) s 0x00000000)) ∧
    (isNaN x = false → extVal x ≤ extVal 0xBF800000 →
      (∃ r q, Answers (.asin x) s r ∧ Answers (.asin 0xBF800000) s r ∧ Answers (.acos x) s q ∧ Answers (.acos 0xBF800000) s q) ∧
      (s.cfg = cfgRef → Answers (.asin x) s 0xBFC90FDB ∧ Answers (.acos x) s 0x40490FDB)) ∧
    (isNaN x = true → Answers (.asin x) s 0x7FC00000 ∧ Answers (.acos x) s 0x7FC00000)

/-- R210: for finite end points `LERP` gives back the value of the first at `t = +0` and of the second at `t = 1.0`. The word can
differ in the sign of a zero end point, as the pseudocode has it (notes/assumptions/19.md). -/
def Obligations.LerpReproducesEndPoints : Prop :=
  ∀ (s : State) (a b : Word), isFinite a = true → isFinite b = true →
    (∃ r, Answers (.lerp a b 0x00000000) s r ∧ isFinite r = true ∧ realVal r = realVal a) ∧
    (∃ r, Answers (.lerp a b 0x3F800000) s r ∧ isFinite r = true ∧ realVal r = realVal b)

/-- R211: with equal finite end points `INVLERP` has no guard: `QNAN` at the end point's value, `+Inf` above it and `-Inf` below. -/
def Obligations.InvLerpOfEqualEndPoints : Prop :=
  ∀ (s : State) (a v : Word), isFinite a = true → isFinite v = true →
    (realVal v = realVal a → Answers (.invlerp a a v) s 0x7FC00000) ∧
    (realVal a < realVal v → Answers (.invlerp a a v) s 0x7F800000) ∧
    (realVal v < realVal a → Answers (.invlerp a a v) s 0xFF800000)

/-- R216: `CLAMP` answers one of its three operand words, and for `lo <= hi` clamping again answers the same word. -/
def Obligations.ClampIsIdempotent : Prop :=
  ∀ (s : State) (x lo hi : Word), ∃ r, Answers (.clamp x lo hi) s r ∧ (r = x ∨ r = lo ∨ r = hi) ∧
    (fle lo hi = true → Answers (.clamp r lo hi) s r ∧ (isNaN x = false → fle lo r = true ∧ fle r hi = true))

/-- R217, R218: `MIN` and `MAX` answer one of their operand words, a bound of both where neither is NaN, and the second operand
where one is NaN or the two are equal. -/
def Obligations.MinMaxPickAnOperand : Prop :=
  ∀ (s : State) (a b : Word), ∃ m x, Answers (.min a b) s m ∧ Answers (.max a b) s x ∧
    (m = a ∨ m = b) ∧ (x = a ∨ x = b) ∧
    (isNaN a = false → isNaN b = false →
      fle m a = true ∧ fle m b = true ∧ fle a x = true ∧ fle b x = true) ∧
    (isNaN a = true ∨ isNaN b = true ∨ feq a b = true → m = b ∧ x = b)

/-- R213: `STEP` answers `+0` exactly where `x` is below the edge, and 1.0 otherwise, NaN included. -/
def Obligations.StepIsThreshold : Prop :=
  ∀ (s : State) (e x : Word),
    (isNaN e = true ∨ isNaN x = true → Answers (.step e x) s 0x3F800000) ∧
    (isNaN e = false → isNaN x = false → extVal x < extVal e → Answers (.step e x) s 0x00000000) ∧
    (isNaN e = false → isNaN x = false → extVal e ≤ extVal x → Answers (.step e x) s 0x3F800000)

/-! ### The polynomials -/

/-- R23: polynomials are evaluated by Horner's rule, one `fmul` and one `fadd` per coefficient, the innermost coefficient first:
the odd polynomial `oddpoly` of LOG, SIN and ATAN over its five coefficients, and the cubic of EXP over its four. -/
def Obligations.PolynomialsAreHorner : Prop :=
  (∀ (k : OddCoeffs) (v : Word), oddpoly k v =
    fmul v (fadd k.k0 (fmul (fmul v v) (fadd k.k1 (fmul (fmul v v) (fadd k.k2 (fmul (fmul v v)
      (fadd k.k3 (fmul (fmul v v) k.k4))))))))) ∧
  (∀ (k : CubicCoeffs) (r : Word), expPoly k r = fadd k.x0 (fmul r (fadd k.x1 (fmul r (fadd k.x2 (fmul r k.x3))))))
end

