-- ==== Sys2Proof/Laws/Assembler.lean ====
section
/-! SUPPORT. What the assembler can do, said once: the one row it takes a line's command word from, and the frame it writes. -/

namespace Sys2Proof.Machine

/-- Where every operand of a line stands for a word, there are as many words as operands. -/
theorem length_of_asmWords {results : List Word} {xs : List AsmOperand} {ws : List Word}
    (h : xs.mapM (asmWord results) = some ws) : xs.length = ws.length := by
  induction xs generalizing ws with
  | nil => cases h; rfl
  | cons x xs ih =>
    simp only [List.mapM_cons, Option.bind_eq_bind, Option.bind_eq_some_iff, Option.pure_def, Option.some.injEq] at h
    obtain ⟨_, _, vs, hvs, rfl⟩ := h
    simp [ih hvs]

/-- A line gives a frame exactly where its mnemonic has a row, its operands stand for words and there are as many as the row's
format uses; the frame is the row's command word, those words in order, and zeros. -/
theorem assemble_eq_some {results : List Word} {l : AsmLine} {f : Frame} :
    assemble results l = some f ↔ ∃ row ws, opcodeTable.find? (fun row => row.mnemonic == l.mnemonic) = some row ∧
      l.operands.mapM (asmWord results) = some ws ∧ ws.length = row.format.arity ∧
      ⟨row.cmd, ws.getD 0 0, ws.getD 1 0, ws.getD 2 0, ws.getD 3 0, ws.getD 4 0⟩ = f := by
  unfold assemble
  cases opcodeTable.find? (fun row => row.mnemonic == l.mnemonic) with
  | none => simp
  | some row => cases l.operands.mapM (asmWord results) <;> simp

end Sys2Proof.Machine
end

