-- ==== Sys2Proof/Laws/Decode.lean ====
section
/-! SUPPORT. The decoder and the encoder, one lemma each way, on the opcode alone. -/

namespace Sys2Proof

/-- The opcode of an encoded command names that command again, whatever frame holds its operand words. -/
theorem decodeOp_encode (i : Instr) : decodeOp (opcodeOf (encode i).cmd) (encode i) = some i := by
  cases i <;> (simp only [encode]; rfl)

/-- No encoded command has a reserved bit set. -/
theorem cmdReserved_encode (i : Instr) : Machine.cmdReserved (encode i).cmd = 0 := by
  cases i <;> (simp only [encode]; rfl)

/-- What an assigned opcode decodes to: a command whose own opcode it is, with the frame's first operand words. -/
theorem decodeOp_eq_some {op : Nat} {f : Frame} {i : Instr} (h : decodeOp op f = some i) :
    opcodeOf (encode i).cmd = op ∧ i.operands = f.operands.take i.format.arity := by
  unfold decodeOp at h
  split at h <;> first | (cases h; simp only [encode]; exact ⟨rfl, rfl⟩) | cases h

/-- A frame decodes to a command exactly where its reserved bits are zero and its opcode is assigned. -/
theorem decode_eq_ok {f : Frame} {i : Instr} :
    decode f = .ok i ↔ Machine.cmdReserved f.cmd = 0 ∧ decodeOp (opcodeOf f.cmd) f = some i := by
  unfold decode
  split
  next h => cases decodeOp (opcodeOf f.cmd) f <;> simp [h]
  next h => simp [h]

/-- A command word with zero reserved bits is its opcode. -/
theorem cmd_eq_of_reserved_zero {w : Word} (h : Machine.cmdReserved w = 0) : w = BitVec.ofNat 32 (opcodeOf w) := by
  apply BitVec.eq_of_toNat_eq
  simp only [Machine.cmdReserved, opcodeOf, Machine.cmdFamily, Machine.cmdIndex, BitVec.extractLsb'_toNat,
    BitVec.toNat_ofNat, Nat.shiftRight_eq_div_pow] at *
  have := w.isLt
  omega

end Sys2Proof
end

