-- ==== Sys2Proof/Laws/Float.lean ====
section
/-! SUPPORT. The fields of a word and of a packed word, the magnitude patterns as numbers in units of 2^-149, and what
`roundMag` does, said once: it picks the nearer of the two neighbouring patterns, the even one on a tie, and infinity from
2^128 on. -/

namespace Sys2Proof.Machine

theorem expField_eq (w : Word) : expField w = w.toNat / 2 ^ 23 % 2 ^ 8 := by
  simp [expField, BitVec.extractLsb'_toNat, Nat.shiftRight_eq_div_pow]

theorem mantissa_eq (w : Word) : mantissa w = w.toNat % 2 ^ 23 := by
  simp [mantissa, BitVec.extractLsb'_toNat]

theorem signBit_eq (w : Word) : signBit w = decide (2 ^ 31 ≤ w.toNat) := by
  have h := w.isLt
  simp only [signBit, BitVec.getLsbD, Nat.testBit_eq_decide_div_mod_eq]
  exact decide_eq_decide.2 (by omega)

theorem expField_lt (w : Word) : expField w < 256 := by
  rw [expField_eq]; omega

theorem mantissa_lt (w : Word) : mantissa w < 2 ^ 23 := by
  rw [mantissa_eq]; omega

theorem toNat_packWord (s : Bool) {m : Nat} (h : m < 2 ^ 31) :
    (packWord s m).toNat = (if s then 2 ^ 31 else 0) + m := by
  cases s <;> simp [packWord] <;> omega

@[simp] theorem signBit_packWord (s : Bool) {m : Nat} (h : m < 2 ^ 31) : signBit (packWord s m) = s := by
  rw [signBit_eq, toNat_packWord s h]
  cases s <;> simp
  omega

@[simp] theorem expField_packWord (s : Bool) {m : Nat} (h : m < 2 ^ 31) : expField (packWord s m) = m / 2 ^ 23 := by
  rw [expField_eq, toNat_packWord s h]
  cases s <;> simp <;> omega

@[simp] theorem mantissa_packWord (s : Bool) {m : Nat} (h : m < 2 ^ 31) : mantissa (packWord s m) = m % 2 ^ 23 := by
  rw [mantissa_eq, toNat_packWord s h]
  cases s <;> simp
  omega

/-- A word is its sign, exponent field and mantissa packed again. -/
theorem packWord_fields (w : Word) : packWord (signBit w) (expField w * 2 ^ 23 + mantissa w) = w := by
  apply BitVec.eq_of_toNat_eq
  have h := w.isLt
  rw [toNat_packWord _ (by rw [expField_eq, mantissa_eq]; omega), signBit_eq, expField_eq, mantissa_eq]
  split <;> simp_all <;> omega

/-- The number, in units of 2^-149, of the finite magnitude pattern `p` (R11), carried on beyond the largest exponent. -/
def patUnits (p : Nat) : Nat := if p / 2 ^ 23 = 0 then p % 2 ^ 23 else (2 ^ 23 + p % 2 ^ 23) * 2 ^ (p / 2 ^ 23 - 1)

/-- The pattern `k * 2^23 + m` is the number `m * 2^k`, in the first binade and for normalised `m`. -/
theorem patUnits_of_scaled {k m : Nat} (hm : m ≤ 2 ^ 24) (hk : k = 0 ∨ 2 ^ 23 ≤ m) :
    patUnits (k * 2 ^ 23 + m) = m * 2 ^ k := by
  unfold patUnits
  rcases Nat.lt_or_ge m (2 ^ 23) with h | h
  · obtain rfl : k = 0 := by omega
    rw [if_pos (by omega)]; omega
  · rcases Nat.lt_or_ge m (2 ^ 24) with h' | h'
    · rw [if_neg (by omega)]
      have h1 : (k * 2 ^ 23 + m) / 2 ^ 23 = k + 1 := by omega
      have h2 : (k * 2 ^ 23 + m) % 2 ^ 23 = m - 2 ^ 23 := by omega
      rw [h1, h2, Nat.add_sub_cancel, Nat.add_sub_cancel' h]
    · obtain rfl : m = 2 ^ 24 := by omega
      rw [if_neg (by omega)]
      have h1 : (k * 2 ^ 23 + 2 ^ 24) / 2 ^ 23 = k + 2 := by omega
      have h2 : (k * 2 ^ 23 + 2 ^ 24) % 2 ^ 23 = 0 := by omega
      rw [h1, h2]
      simp only [Nat.add_zero, show k + 2 - 1 = k + 1 by omega, Nat.pow_succ]
      omega

theorem patUnits_lt_succ (p : Nat) : patUnits p < patUnits (p + 1) := by
  rcases Nat.lt_or_ge p (2 ^ 23) with h | h
  · have h1 := patUnits_of_scaled (k := 0) (m := p) (by omega) (.inl rfl)
    have h2 := patUnits_of_scaled (k := 0) (m := p + 1) (by omega) (.inl rfl)
    simp at h1 h2
    omega
  · have h1 := patUnits_of_scaled (k := p / 2 ^ 23 - 1) (m := 2 ^ 23 + p % 2 ^ 23) (by omega) (.inr (by omega))
    have h2 := patUnits_of_scaled (k := p / 2 ^ 23 - 1) (m := 2 ^ 23 + p % 2 ^ 23 + 1) (by omega) (.inr (by omega))
    rw [show (p / 2 ^ 23 - 1) * 2 ^ 23 + (2 ^ 23 + p % 2 ^ 23) = p by omega] at h1
    rw [show (p / 2 ^ 23 - 1) * 2 ^ 23 + (2 ^ 23 + p % 2 ^ 23 + 1) = p + 1 by omega] at h2
    rw [h1, h2]
    exact Nat.mul_lt_mul_of_pos_right (Nat.lt_succ_self _) (Nat.two_pow_pos _)

theorem patUnits_strictMono : StrictMono patUnits := strictMono_nat_of_lt_succ patUnits_lt_succ

/-- The magnitude of a word is the number of its magnitude pattern. -/
theorem magUnits_eq_patUnits (w : Word) : magUnits w = patUnits (expField w * 2 ^ 23 + mantissa w) := by
  have h := mantissa_lt w
  unfold magUnits patUnits
  rw [show (expField w * 2 ^ 23 + mantissa w) / 2 ^ 23 = expField w by omega,
    show (expField w * 2 ^ 23 + mantissa w) % 2 ^ 23 = mantissa w by omega]

theorem magUnits_packWord (s : Bool) {m : Nat} (h : m < 2 ^ 31) : magUnits (packWord s m) = patUnits m := by
  rw [magUnits_eq_patUnits, expField_packWord s h, mantissa_packWord s h]
  congr 1
  omega

/-- What a packed word stands for: a finite number below the pattern of infinity, and infinity there. -/
theorem val_packWord (s : Bool) {m : Nat} (h : m ≤ 255 * 2 ^ 23) :
    val (packWord s m) = if m = 255 * 2 ^ 23 then .inf s else .fin s (patUnits m) := by
  have hm : m < 2 ^ 31 := by omega
  unfold val
  rw [expField_packWord s hm, mantissa_packWord s hm, signBit_packWord s hm, magUnits_packWord s hm]
  split
  · rename_i h1
    rw [if_pos (by omega), if_pos (by omega)]
  · rename_i h1
    rw [if_neg (by omega)]

/-- What rounding does (R17): with `b` the pattern whose number is the greatest not above `n / d`, the result is `b` or
`b + 1`, whichever is nearer, the even one on a tie, and never more than the pattern of infinity. -/
theorem roundMag_bracket (n : Nat) {d : Nat} (hd : 0 < d) :
    ∃ b, patUnits b * d ≤ n ∧ n < patUnits (b + 1) * d ∧
      roundMag n d = Nat.min (if (patUnits b + patUnits (b + 1)) * d < 2 * n ∨
        ((patUnits b + patUnits (b + 1)) * d = 2 * n ∧ b % 2 = 1) then b + 1 else b) (255 * 2 ^ 23) := by
  obtain ⟨k, hk⟩ : ∃ k, k = Nat.log2 (n / d) - 23 := ⟨_, rfl⟩
  have hden : 0 < d * 2 ^ k := Nat.mul_pos hd (Nat.two_pow_pos k)
  obtain ⟨m, hm⟩ : ∃ m, m = n / (d * 2 ^ k) := ⟨_, rfl⟩
  have hmq : m = n / d / 2 ^ k := by rw [hm, Nat.div_div_eq_div_mul]
  have hm_lt : m < 2 ^ 24 := by
    rw [hmq, Nat.div_lt_iff_lt_mul (Nat.two_pow_pos k), ← Nat.pow_add]
    rcases Nat.eq_zero_or_pos (n / d) with h0 | h0
    · rw [h0]; exact Nat.two_pow_pos _
    · exact lt_of_lt_of_le Nat.lt_log2_self (Nat.pow_le_pow_right (by omega) (by omega))
  have hm_ge : k = 0 ∨ 2 ^ 23 ≤ m := by
    rcases Nat.eq_zero_or_pos k with h0 | h0
    · exact .inl h0
    · refine .inr ?_
      rw [hmq, Nat.le_div_iff_mul_le (Nat.two_pow_pos k), ← Nat.pow_add,
        show 23 + k = Nat.log2 (n / d) by omega]
      exact Nat.log2_self_le (by rintro h; simp [h] at hk; omega)
  have hb := patUnits_of_scaled (k := k) (m := m) (by omega) hm_ge
  have hb1 := patUnits_of_scaled (k := k) (m := m + 1) (by omega) (by omega)
  have hdiv : d * 2 ^ k * m + n % (d * 2 ^ k) = n := by rw [hm]; exact Nat.div_add_mod n _
  have hr := Nat.mod_lt n hden
  have e0 : patUnits (k * 2 ^ 23 + m) * d = d * 2 ^ k * m := by rw [hb]; ring
  have e1 : patUnits (k * 2 ^ 23 + m + 1) * d = d * 2 ^ k * m + d * 2 ^ k := by
    rw [show k * 2 ^ 23 + m + 1 = k * 2 ^ 23 + (m + 1) by omega, hb1]; ring
  refine ⟨k * 2 ^ 23 + m, by omega, by omega, ?_⟩
  have hcond : (d * 2 ^ k < 2 * (n % (d * 2 ^ k)) ∨ (2 * (n % (d * 2 ^ k)) = d * 2 ^ k ∧ m % 2 = 1)) ↔
      ((patUnits (k * 2 ^ 23 + m) + patUnits (k * 2 ^ 23 + m + 1)) * d < 2 * n ∨
        ((patUnits (k * 2 ^ 23 + m) + patUnits (k * 2 ^ 23 + m + 1)) * d = 2 * n ∧ (k * 2 ^ 23 + m) % 2 = 1)) := by
    rw [Nat.add_mul, e0, e1]
    omega
  unfold roundMag
  simp only [← hk, ← hm]
  rw [if_congr hcond rfl rfl]
  split <;> simp only [Nat.add_assoc]

/-- A number that is a pattern's own rounds to that pattern. -/
theorem roundMag_exact {p d : Nat} (hp : p ≤ 255 * 2 ^ 23) (hd : 0 < d) : roundMag (patUnits p * d) d = p := by
  obtain ⟨b, h1, h2, h3⟩ := roundMag_bracket (patUnits p * d) hd
  have hbp : b ≤ p := patUnits_strictMono.le_iff_le.1 (Nat.le_of_mul_le_mul_right h1 hd)
  have hpb : p < b + 1 := patUnits_strictMono.lt_iff_lt.1 (Nat.lt_of_mul_lt_mul_right h2)
  obtain rfl : b = p := by omega
  rw [h3, if_neg]
  · exact Nat.min_eq_left hp
  · rw [Nat.add_mul]
    omega

theorem roundMag_le (n d : Nat) : roundMag n d ≤ 255 * 2 ^ 23 := Nat.min_le_right _ _

/-- What a rounded number stands for. -/
theorem val_roundTo (s : Bool) (n d : Nat) :
    val (roundTo s n d) = if roundMag n d = 255 * 2 ^ 23 then .inf s else .fin s (patUnits (roundMag n d)) :=
  val_packWord s (roundMag_le n d)

end Sys2Proof.Machine
end

