-- ==== Sys2Proof/Laws/PerInstr.lean ====
section
/-! SUPPORT. A family of statements made per instruction: what the encoder writes is a frame the assembler of R79 writes,
that is, a legal command word with the operand words its format uses and zeros elsewhere. -/

namespace Sys2Proof.Laws.EncodeAssembled

/-- The frame the encoder writes is legal, holds the command's operand words where its format has them, and is zero in the
operand words the format does not use. -/
def Statement (i : Instr) : Prop :=
  i.wellFormed = true ∧ (encode i).legal = true ∧ (encode i).usedOperands = i.operands ∧ (encode i).unusedZero = true

theorem tobits (x : Word) : Statement (.tobits x) := by
  simp only [Statement, encode, Frame.legal, Frame.usedOperands, Frame.unusedZero]; exact ⟨rfl, rfl, rfl, rfl⟩

theorem frombits (u : Word) : Statement (.frombits u) := by
  simp only [Statement, encode, Frame.legal, Frame.usedOperands, Frame.unusedZero]; exact ⟨rfl, rfl, rfl, rfl⟩

theorem abs (x : Word) : Statement (.abs x) := by
  simp only [Statement, encode, Frame.legal, Frame.usedOperands, Frame.unusedZero]; exact ⟨rfl, rfl, rfl, rfl⟩

theorem sign (x : Word) : Statement (.sign x) := by
  simp only [Statement, encode, Frame.legal, Frame.usedOperands, Frame.unusedZero]; exact ⟨rfl, rfl, rfl, rfl⟩

theorem copysign (x y : Word) : Statement (.copysign x y) := by
  simp only [Statement, encode, Frame.legal, Frame.usedOperands, Frame.unusedZero]; exact ⟨rfl, rfl, rfl, rfl⟩

theorem isnear (a b tol : Word) : Statement (.isnear a b tol) := by
  simp only [Statement, encode, Frame.legal, Frame.usedOperands, Frame.unusedZero]; exact ⟨rfl, rfl, rfl, rfl⟩

theorem isnan (x : Word) : Statement (.isnan x) := by
  simp only [Statement, encode, Frame.legal, Frame.usedOperands, Frame.unusedZero]; exact ⟨rfl, rfl, rfl, rfl⟩

theorem isinf (x : Word) : Statement (.isinf x) := by
  simp only [Statement, encode, Frame.legal, Frame.usedOperands, Frame.unusedZero]; exact ⟨rfl, rfl, rfl, rfl⟩

theorem floor (x : Word) : Statement (.floor x) := by
  simp only [Statement, encode, Frame.legal, Frame.usedOperands, Frame.unusedZero]; exact ⟨rfl, rfl, rfl, rfl⟩

theorem ceil (x : Word) : Statement (.ceil x) := by
  simp only [Statement, encode, Frame.legal, Frame.usedOperands, Frame.unusedZero]; exact ⟨rfl, rfl, rfl, rfl⟩

theorem round (x : Word) : Statement (.round x) := by
  simp only [Statement, encode, Frame.legal, Frame.usedOperands, Frame.unusedZero]; exact ⟨rfl, rfl, rfl, rfl⟩

theorem fract (x : Word) : Statement (.fract x) := by
  simp only [Statement, encode, Frame.legal, Frame.usedOperands, Frame.unusedZero]; exact ⟨rfl, rfl, rfl, rfl⟩

theorem fmod (x y : Word) : Statement (.fmod x y) := by
  simp only [Statement, encode, Frame.legal, Frame.usedOperands, Frame.unusedZero]; exact ⟨rfl, rfl, rfl, rfl⟩

theorem mod (x y : Word) : Statement (.mod x y) := by
  simp only [Statement, encode, Frame.legal, Frame.usedOperands, Frame.unusedZero]; exact ⟨rfl, rfl, rfl, rfl⟩

theorem invsqrt (x : Word) : Statement (.invsqrt x) := by
  simp only [Statement, encode, Frame.legal, Frame.usedOperands, Frame.unusedZero]; exact ⟨rfl, rfl, rfl, rfl⟩

theorem sqrt (x : Word) : Statement (.sqrt x) := by
  simp only [Statement, encode, Frame.legal, Frame.usedOperands, Frame.unusedZero]; exact ⟨rfl, rfl, rfl, rfl⟩

theorem hypot (x y : Word) : Statement (.hypot x y) := by
  simp only [Statement, encode, Frame.legal, Frame.usedOperands, Frame.unusedZero]; exact ⟨rfl, rfl, rfl, rfl⟩

theorem log (x : Word) : Statement (.log x) := by
  simp only [Statement, encode, Frame.legal, Frame.usedOperands, Frame.unusedZero]; exact ⟨rfl, rfl, rfl, rfl⟩

theorem log2 (x : Word) : Statement (.log2 x) := by
  simp only [Statement, encode, Frame.legal, Frame.usedOperands, Frame.unusedZero]; exact ⟨rfl, rfl, rfl, rfl⟩

theorem exp (x : Word) : Statement (.exp x) := by
  simp only [Statement, encode, Frame.legal, Frame.usedOperands, Frame.unusedZero]; exact ⟨rfl, rfl, rfl, rfl⟩

theorem pow (x y : Word) : Statement (.pow x y) := by
  simp only [Statement, encode, Frame.legal, Frame.usedOperands, Frame.unusedZero]; exact ⟨rfl, rfl, rfl, rfl⟩

theorem sin (x : Word) : Statement (.sin x) := by
  simp only [Statement, encode, Frame.legal, Frame.usedOperands, Frame.unusedZero]; exact ⟨rfl, rfl, rfl, rfl⟩

theorem cos (x : Word) : Statement (.cos x) := by
  simp only [Statement, encode, Frame.legal, Frame.usedOperands, Frame.unusedZero]; exact ⟨rfl, rfl, rfl, rfl⟩

theorem tan (x : Word) : Statement (.tan x) := by
  simp only [Statement, encode, Frame.legal, Frame.usedOperands, Frame.unusedZero]; exact ⟨rfl, rfl, rfl, rfl⟩

theorem atan (x : Word) : Statement (.atan x) := by
  simp only [Statement, encode, Frame.legal, Frame.usedOperands, Frame.unusedZero]; exact ⟨rfl, rfl, rfl, rfl⟩

theorem atan2 (y x : Word) : Statement (.atan2 y x) := by
  simp only [Statement, encode, Frame.legal, Frame.usedOperands, Frame.unusedZero]; exact ⟨rfl, rfl, rfl, rfl⟩

theorem asin (x : Word) : Statement (.asin x) := by
  simp only [Statement, encode, Frame.legal, Frame.usedOperands, Frame.unusedZero]; exact ⟨rfl, rfl, rfl, rfl⟩

theorem acos (x : Word) : Statement (.acos x) := by
  simp only [Statement, encode, Frame.legal, Frame.usedOperands, Frame.unusedZero]; exact ⟨rfl, rfl, rfl, rfl⟩

theorem deg2rad (x : Word) : Statement (.deg2rad x) := by
  simp only [Statement, encode, Frame.legal, Frame.usedOperands, Frame.unusedZero]; exact ⟨rfl, rfl, rfl, rfl⟩

theorem rad2deg (x : Word) : Statement (.rad2deg x) := by
  simp only [Statement, encode, Frame.legal, Frame.usedOperands, Frame.unusedZero]; exact ⟨rfl, rfl, rfl, rfl⟩

theorem lerp (a b t : Word) : Statement (.lerp a b t) := by
  simp only [Statement, encode, Frame.legal, Frame.usedOperands, Frame.unusedZero]; exact ⟨rfl, rfl, rfl, rfl⟩

theorem invlerp (a b v : Word) : Statement (.invlerp a b v) := by
  simp only [Statement, encode, Frame.legal, Frame.usedOperands, Frame.unusedZero]; exact ⟨rfl, rfl, rfl, rfl⟩

theorem remap (a b c d v : Word) : Statement (.remap a b c d v) := by
  simp only [Statement, encode, Frame.legal, Frame.usedOperands, Frame.unusedZero]; exact ⟨rfl, rfl, rfl, rfl⟩

theorem step (edge x : Word) : Statement (.step edge x) := by
  simp only [Statement, encode, Frame.legal, Frame.usedOperands, Frame.unusedZero]; exact ⟨rfl, rfl, rfl, rfl⟩

theorem smoothstep (e0 e1 x : Word) : Statement (.smoothstep e0 e1 x) := by
  simp only [Statement, encode, Frame.legal, Frame.usedOperands, Frame.unusedZero]; exact ⟨rfl, rfl, rfl, rfl⟩

theorem smootherstep (e0 e1 x : Word) : Statement (.smootherstep e0 e1 x) := by
  simp only [Statement, encode, Frame.legal, Frame.usedOperands, Frame.unusedZero]; exact ⟨rfl, rfl, rfl, rfl⟩

theorem clamp (x lo hi : Word) : Statement (.clamp x lo hi) := by
  simp only [Statement, encode, Frame.legal, Frame.usedOperands, Frame.unusedZero]; exact ⟨rfl, rfl, rfl, rfl⟩

theorem min (a b : Word) : Statement (.min a b) := by
  simp only [Statement, encode, Frame.legal, Frame.usedOperands, Frame.unusedZero]; exact ⟨rfl, rfl, rfl, rfl⟩

theorem max (a b : Word) : Statement (.max a b) := by
  simp only [Statement, encode, Frame.legal, Frame.usedOperands, Frame.unusedZero]; exact ⟨rfl, rfl, rfl, rfl⟩

end Sys2Proof.Laws.EncodeAssembled
end

