-- ==== Sys2Proof/Laws/Primitives.lean ====
section
/-! SUPPORT. One lemma per primitive and per class of operands, so that no later proof unfolds a primitive: the classes of a
word, NaN operands, finite operands, and the conversions. -/

namespace Sys2Proof.Machine

theorem val_eq_nan_iff {w : Word} : val w = .nan ↔ isNaN w = true := by
  unfold val isNaN
  by_cases h : expField w = 255 <;> by_cases h' : mantissa w = 0 <;> simp [h, h']

theorem val_eq_inf_iff {w : Word} {s : Bool} : val w = .inf s ↔ isInf w = true ∧ signBit w = s := by
  unfold val isInf
  by_cases h : expField w = 255 <;> by_cases h' : mantissa w = 0 <;> simp [h, h']

theorem val_eq_fin_iff {w : Word} {s : Bool} {m : Nat} :
    val w = .fin s m ↔ expField w ≠ 255 ∧ signBit w = s ∧ magUnits w = m := by
  unfold val
  by_cases h : expField w = 255 <;> by_cases h' : mantissa w = 0 <;> simp [h, h']

theorem val_of_not_exp255 {w : Word} (h : expField w ≠ 255) : val w = .fin (signBit w) (magUnits w) :=
  val_eq_fin_iff.2 ⟨h, rfl, rfl⟩

theorem fadd_nan_left {a b : Word} (h : val a = .nan) : fadd a b = qnan := by simp [fadd, h]

theorem fadd_nan_right {a b : Word} (h : val b = .nan) : fadd a b = qnan := by
  unfold fadd; rw [h]; cases val a <;> rfl

theorem fmul_nan_left {a b : Word} (h : val a = .nan) : fmul a b = qnan := by simp [fmul, h]

theorem fmul_nan_right {a b : Word} (h : val b = .nan) : fmul a b = qnan := by
  unfold fmul; rw [h]; cases val a <;> rfl

theorem fdiv_nan_left {a b : Word} (h : val a = .nan) : fdiv a b = qnan := by simp [fdiv, h]

theorem fdiv_nan_right {a b : Word} (h : val b = .nan) : fdiv a b = qnan := by
  unfold fdiv; rw [h]; cases val a <;> rfl

theorem flt_nan_left {a b : Word} (h : val a = .nan) : flt a b = false := by simp [flt, h]

theorem flt_nan_right {a b : Word} (h : val b = .nan) : flt a b = false := by
  unfold flt; rw [h]; cases val a <;> rfl

theorem fle_nan_left {a b : Word} (h : val a = .nan) : fle a b = false := by simp [fle, h]

theorem fle_nan_right {a b : Word} (h : val b = .nan) : fle a b = false := by
  unfold fle; rw [h]; cases val a <;> rfl

theorem feq_nan_left {a b : Word} (h : val a = .nan) : feq a b = false := by simp [feq, h]

theorem feq_nan_right {a b : Word} (h : val b = .nan) : feq a b = false := by
  unfold feq; rw [h]; cases val a <;> rfl

section Finite

variable {a b : Word} {s t : Bool} {m n : Nat}

theorem fadd_fin (ha : val a = .fin s m) (hb : val b = .fin t n) :
    fadd a b = if signedUnits s m + signedUnits t n = 0 then zeroOf (s && t)
      else roundTo (decide (signedUnits s m + signedUnits t n < 0)) (signedUnits s m + signedUnits t n).natAbs 1 := by
  simp [fadd, ha, hb]

theorem fmul_fin (ha : val a = .fin s m) (hb : val b = .fin t n) :
    fmul a b = roundTo (s ^^ t) (m * n) (2 ^ 149) := by
  simp [fmul, ha, hb]

theorem fdiv_fin (ha : val a = .fin s m) (hb : val b = .fin t n) (hn : n ≠ 0) :
    fdiv a b = roundTo (s ^^ t) (m * 2 ^ 149) n := by
  simp [fdiv, ha, hb, hn]

theorem flt_fin (ha : val a = .fin s m) (hb : val b = .fin t n) :
    flt a b = decide (signedUnits s m < signedUnits t n) := by
  simp [flt, ha, hb]

theorem fle_fin (ha : val a = .fin s m) (hb : val b = .fin t n) :
    fle a b = decide (signedUnits s m ≤ signedUnits t n) := by
  simp [fle, ha, hb]

theorem feq_fin (ha : val a = .fin s m) (hb : val b = .fin t n) :
    feq a b = decide (signedUnits s m = signedUnits t n) := by
  simp [feq, ha, hb]

end Finite

theorem f2i_of_small {v : Word} (h : expField v < 150) : f2i v = signedUnits (signBit v) (magUnits v / 2 ^ 149) := by
  simp [f2i, h]

/-- Two words with the same sign, exponent field and mantissa are the same word. -/
theorem word_eq_of_fields {v w : Word} (hs : signBit v = signBit w) (he : expField v = expField w)
    (hm : mantissa v = mantissa w) : v = w := by
  rw [← packWord_fields v, ← packWord_fields w, hs, he, hm]

@[simp] theorem signBit_fneg (w : Word) : signBit (fneg w) = !signBit w := by
  simp [signBit, fneg]

@[simp] theorem expField_fneg (w : Word) : expField (fneg w) = expField w := by
  simp [expField, fneg, BitVec.extractLsb'_xor]

@[simp] theorem mantissa_fneg (w : Word) : mantissa (fneg w) = mantissa w := by
  simp [mantissa, fneg, BitVec.extractLsb'_xor]

@[simp] theorem magUnits_fneg (w : Word) : magUnits (fneg w) = magUnits w := by simp [magUnits]

@[simp] theorem signBit_magnitude (w : Word) : signBit (magnitude w) = false := by
  simp [signBit, magnitude]

@[simp] theorem expField_magnitude (w : Word) : expField (magnitude w) = expField w := by
  have h : (0x7FFFFFFF#32).extractLsb' 23 8 = BitVec.allOnes 8 := by decide
  simp only [expField, magnitude, BitVec.extractLsb'_and]
  rw [show (0x7FFFFFFF : Word) = 0x7FFFFFFF#32 from rfl, h, BitVec.and_allOnes]

@[simp] theorem mantissa_magnitude (w : Word) : mantissa (magnitude w) = mantissa w := by
  have h : (0x7FFFFFFF#32).extractLsb' 0 23 = BitVec.allOnes 23 := by decide
  simp only [mantissa, magnitude, BitVec.extractLsb'_and]
  rw [show (0x7FFFFFFF : Word) = 0x7FFFFFFF#32 from rfl, h, BitVec.and_allOnes]

@[simp] theorem magUnits_magnitude (w : Word) : magUnits (magnitude w) = magUnits w := by simp [magUnits]

end Sys2Proof.Machine
end

