-- ==== Sys2Proof/Laws/State.lean ====
section
/-! SUPPORT. One lemma per field per update of State, and what State.reset holds, so that no later proof unfolds a record
update. -/

namespace Sys2Proof.Machine

@[simp] theorem State.present_cfg (s : State) (f : Frame) : (s.present f).cfg = s.cfg := rfl
@[simp] theorem State.present_rst (s : State) (f : Frame) : (s.present f).rst = s.rst := rfl
@[simp] theorem State.present_requests (s : State) (f : Frame) : (s.present f).requests = s.requests ++ [f] := rfl
@[simp] theorem State.present_inFlight (s : State) (f : Frame) : (s.present f).inFlight = s.inFlight := rfl
@[simp] theorem State.present_responses (s : State) (f : Frame) : (s.present f).responses = s.responses := rfl
@[simp] theorem State.present_pace (s : State) (f : Frame) : (s.present f).pace = s.pace := rfl

@[simp] theorem State.dropInFlight_cfg (s : State) : s.dropInFlight.cfg = s.cfg := rfl
@[simp] theorem State.dropInFlight_rst (s : State) : s.dropInFlight.rst = s.rst := rfl
@[simp] theorem State.dropInFlight_requests (s : State) : s.dropInFlight.requests = s.requests := rfl
@[simp] theorem State.dropInFlight_inFlight (s : State) : s.dropInFlight.inFlight = [] := rfl
@[simp] theorem State.dropInFlight_responses (s : State) : s.dropInFlight.responses = [] := rfl
@[simp] theorem State.dropInFlight_pace (s : State) : s.dropInFlight.pace = s.pace := rfl

@[simp] theorem State.assertReset_cfg (s : State) : s.assertReset.cfg = s.cfg := rfl
@[simp] theorem State.assertReset_rst (s : State) : s.assertReset.rst = true := rfl
@[simp] theorem State.assertReset_requests (s : State) : s.assertReset.requests = s.requests := rfl
@[simp] theorem State.assertReset_inFlight (s : State) : s.assertReset.inFlight = [] := rfl
@[simp] theorem State.assertReset_responses (s : State) : s.assertReset.responses = [] := rfl
@[simp] theorem State.assertReset_pace (s : State) : s.assertReset.pace = s.pace := rfl

@[simp] theorem State.releaseReset_cfg (s : State) : s.releaseReset.cfg = s.cfg := rfl
@[simp] theorem State.releaseReset_rst (s : State) : s.releaseReset.rst = false := rfl
@[simp] theorem State.releaseReset_requests (s : State) : s.releaseReset.requests = s.requests := rfl
@[simp] theorem State.releaseReset_inFlight (s : State) : s.releaseReset.inFlight = s.inFlight := rfl
@[simp] theorem State.releaseReset_responses (s : State) : s.releaseReset.responses = s.responses := rfl
@[simp] theorem State.releaseReset_pace (s : State) : s.releaseReset.pace = s.pace := rfl

@[simp] theorem State.deliver_cfg (s : State) (x : Response) : (s.deliver x).cfg = s.cfg := rfl
@[simp] theorem State.deliver_rst (s : State) (x : Response) : (s.deliver x).rst = s.rst := rfl
@[simp] theorem State.deliver_requests (s : State) (x : Response) : (s.deliver x).requests = s.requests := rfl
@[simp] theorem State.deliver_inFlight (s : State) (x : Response) : (s.deliver x).inFlight = s.inFlight := rfl
@[simp] theorem State.deliver_responses (s : State) (x : Response) : (s.deliver x).responses = s.responses ++ [x] := rfl
@[simp] theorem State.deliver_pace (s : State) (x : Response) : (s.deliver x).pace = s.pace := rfl

@[simp] theorem State.withFetchWord_cfg (s : State) (nbits w : Nat) : (s.withFetchWord nbits w).cfg = s.cfg := rfl
@[simp] theorem State.withFetchWord_rst (s : State) (nbits w : Nat) : (s.withFetchWord nbits w).rst = false := rfl
@[simp] theorem State.withFetchWord_requests (s : State) (nbits w : Nat) : (s.withFetchWord nbits w).requests = s.requests := rfl
@[simp] theorem State.withFetchWord_inFlight (s : State) (nbits w : Nat) : (s.withFetchWord nbits w).inFlight = frameOfNat (w % 2 ^ nbits) :: s.inFlight := rfl
@[simp] theorem State.withFetchWord_responses (s : State) (nbits w : Nat) : (s.withFetchWord nbits w).responses = s.responses := rfl
@[simp] theorem State.withFetchWord_pace (s : State) (nbits w : Nat) : (s.withFetchWord nbits w).pace = [] := rfl

@[simp] theorem State.idle_cfg (cfg : Cfg) : (State.idle cfg).cfg = cfg := rfl
@[simp] theorem State.idle_rst (cfg : Cfg) : (State.idle cfg).rst = false := rfl
@[simp] theorem State.idle_requests (cfg : Cfg) : (State.idle cfg).requests = [] := rfl
@[simp] theorem State.idle_inFlight (cfg : Cfg) : (State.idle cfg).inFlight = [] := rfl
@[simp] theorem State.idle_responses (cfg : Cfg) : (State.idle cfg).responses = [] := rfl
@[simp] theorem State.idle_pace (cfg : Cfg) : (State.idle cfg).pace = [] := rfl

/-- Accepting where no request is presented changes nothing. -/
@[simp] theorem State.acceptOldest_of_no_request {s : State} (h : s.requests = []) : s.acceptOldest = s := by
  simp [State.acceptOldest, h]

/-- Accepting moves the oldest presented request to the end of the commands in flight. -/
theorem State.acceptOldest_of_request {s : State} {f : Frame} {fs : List Frame} (h : s.requests = f :: fs) :
    s.acceptOldest = { s with requests := fs, inFlight := s.inFlight ++ [f] } := by
  simp [State.acceptOldest, h]

@[simp] theorem State.acceptOldest_cfg (s : State) : s.acceptOldest.cfg = s.cfg := by
  unfold State.acceptOldest; split <;> rfl

@[simp] theorem State.acceptOldest_rst (s : State) : s.acceptOldest.rst = s.rst := by
  unfold State.acceptOldest; split <;> rfl

@[simp] theorem State.acceptOldest_responses (s : State) : s.acceptOldest.responses = s.responses := by
  unfold State.acceptOldest; split <;> rfl

@[simp] theorem State.acceptOldest_pace (s : State) : s.acceptOldest.pace = s.pace := by
  unfold State.acceptOldest; split <;> rfl

/-- Acceptance keeps the sequence of requests in acceptance order. -/
@[simp] theorem State.acceptOldest_sequence (s : State) :
    s.acceptOldest.inFlight ++ s.acceptOldest.requests = s.inFlight ++ s.requests := by
  unfold State.acceptOldest; split <;> simp_all

/-- Taking a response takes the oldest and leaves the rest; nothing else changes. -/
theorem State.takeResponse_eq_some {s t : State} {x : Response} :
    s.takeResponse = some (x, t) ↔ ∃ xs, s.responses = x :: xs ∧ t = { s with responses := xs } := by
  unfold State.takeResponse
  cases s.responses with
  | nil => simp
  | cons y ys =>
    simp only [Option.some.injEq, Prod.mk.injEq, List.cons.injEq]
    constructor
    · rintro ⟨rfl, rfl⟩
      exact ⟨ys, ⟨rfl, rfl⟩, rfl⟩
    · rintro ⟨xs, ⟨rfl, rfl⟩, rfl⟩
      exact ⟨rfl, rfl⟩

end Sys2Proof.Machine
end

