-- ==== Sys2Proof/Laws/Step.lean ====
section
/-! SUPPORT. What a step can do, said once: every meaning delivers one response, and every step is one of a drop under reset,
an acceptance, an answer, or a wait. -/

namespace Sys2Proof.Machine

/-- Every command delivers the response of its rule and changes nothing else: the one lemma to cite for exec. -/
theorem exec_eq_deliver (i : Instr) (s : State) : exec i s = .next (s.deliver ⟨resultOf s.cfg i, faultClear⟩) := by
  cases i <;> rfl

/-- A frame, legal or not, is answered with its response, and nothing else changes. -/
theorem answerFrame_eq_deliver (f : Frame) (s : State) : answerFrame f s = .next (s.deliver (responseTo s.cfg f)) := by
  unfold answerFrame responseTo
  cases decode f with
  | ok i => exact exec_eq_deliver i s
  | error _ => rfl

/-- Answering with a command in flight: it leaves the queue and its response is delivered. -/
theorem answerOldest_of_inFlight {s : State} {f : Frame} {fs : List Frame} (h : s.inFlight = f :: fs) :
    answerOldest s = .next ({ s with inFlight := fs }.deliver (responseTo s.cfg f)) := by
  simp [answerOldest, h, answerFrame_eq_deliver]

/-- Answering with nothing in flight changes nothing. -/
theorem answerOldest_of_none {s : State} (h : s.inFlight = []) : answerOldest s = .next s := by
  simp [answerOldest, h]

/-- Everything a step can do: under reset, drop; otherwise, with `p` what is left of the pace, accept, answer the oldest
command in flight, or leave the channels alone. -/
theorem step_cases (s : State) :
    (s.rst = true ∧ step s = .next s.dropInFlight) ∨
      (s.rst = false ∧ ∃ p, p = s.pace.tail ∧
        (step s = .next (State.acceptOldest { s with pace := p }) ∨
          (∃ f fs, s.inFlight = f :: fs ∧
            step s = .next ({ s with inFlight := fs, pace := p }.deliver (responseTo s.cfg f))) ∨
          step s = .next { s with pace := p })) := by
  obtain ⟨cfg, rst, requests, inFlight, responses, pace⟩ := s
  cases rst with
  | true => exact .inl ⟨rfl, rfl⟩
  | false =>
    refine .inr ⟨rfl, pace.tail, rfl, ?_⟩
    cases pace with
    | nil =>
      cases inFlight with
      | nil => exact .inl rfl
      | cons f fs => exact .inr (.inl ⟨f, fs, rfl, answerFrame_eq_deliver f _⟩)
    | cons p ps =>
      cases p with
      | accept => exact .inl rfl
      | answer =>
        cases inFlight with
        | nil => exact .inr (.inr rfl)
        | cons f fs => exact .inr (.inl ⟨f, fs, rfl, answerFrame_eq_deliver f _⟩)
      | wait => exact .inr (.inr rfl)

/-- A step about to answer a frame answers it. -/
theorem step_of_aboutToAnswer {s : State} {f : Frame} {rest : List Frame} (h : Safety.AboutToAnswer s f rest) :
    step s = answerFrame f { s with inFlight := rest, pace := s.pace.tail } := by
  obtain ⟨cfg, rst, requests, inFlight, responses, pace⟩ := s
  obtain ⟨rfl, rfl, rfl | ⟨p, rfl⟩⟩ := h <;> rfl

/-- The step after withFetchWord answers exactly the frame it stored. -/
theorem step_withFetchWord (s : State) (nbits w : Nat) :
    step (s.withFetchWord nbits w) = answerFrame (frameOfNat (w % 2 ^ nbits)) { s with rst := false, pace := [] } := rfl

/-- A run of one step more is the run from the next state. -/
theorem run_succ_of_step {s t : State} (n : Nat) (h : step s = .next t) :
    Host.Core.run Sys2Proof.core (n + 1) s = Host.Core.run Sys2Proof.core n t := by
  have h' : Sys2Proof.core.step s = .next t := h
  simp only [Host.Core.run]
  simp only [h']

end Sys2Proof.Machine
end

