-- ==== Sys2Proof/Tests/Slice0.lean ====
section
/-! SUPPORT. The model's own tests: the checks of WellFormed on ill-formed frames, one word per command from the table of
R77, at most two operands per command with the result the spec writes out (under `CFG_REF`), the channels and reset, and for
every statement with hypotheses a named witness `hyp_…` that meets them, one per clause, at a boundary where there is one. -/

namespace Sys2Proof.Tests

open Sys2Proof.Machine Sys2Proof.Safety

/-- The responses after one command at the reset state. -/
def answer (i : Instr) : List Response :=
  match exec i State.reset with
  | .next t => t.responses
  | _ => []

/-- The unit with these frames in flight, and nothing else. -/
def flying (fs : List Frame) : State := { State.reset with inFlight := fs }

/-- `ABS -1.5`, with an unused operand word that is not zero. -/
def absFrame : Frame := ⟨0x00000010, 0xBFC00000, 7, 0, 0, 0⟩

/-- An illegal frame: `OP = 0x00` with an operand. -/
def zeroFrame : Frame := ⟨0x00000000, 0x3F800000, 0, 0, 0, 0⟩

/-! ### Well-formedness: what each check refuses -/

/-- R71: a reserved bit is set. -/
theorem test_refuse_reserved_bit : reservedZero 0x00000110 = false ∧ reservedZero 0x00000010 = true := by decide
/-- R78: opcode 0x69 is not assigned. -/
theorem test_refuse_unassigned_opcode : formatOf 0x00000069 = none ∧ legalCmd 0x00000069 = false := by decide
/-- R78: the all-zero word is not a command. -/
theorem test_refuse_zero_word : Frame.legal ⟨0, 0, 0, 0, 0, 0⟩ = false := by decide
/-- R79: the assembler writes zeros in unused operand words. -/
theorem test_refuse_unused_operand : absFrame.legal = true ∧ absFrame.unusedZero = false ∧ absFrame.assembled = false := by
  decide
/-- R72: the type of Instr leaves no ill-formed term. -/
theorem test_every_instr_wellFormed (i : Instr) : i.wellFormed = true := by cases i <;> rfl
/-- R78: the decoder's two refusals, by name. -/
theorem test_decode_refusals : decode ⟨0x80000010, 1, 2, 3, 4, 5⟩ = .error .reservedBits ∧
    decode ⟨0x0000000F, 1, 2, 3, 4, 5⟩ = .error .unassignedOpcode := ⟨rfl, rfl⟩
/-- R77: the table's words are 39 different legal words, with the format the decoder's command has. -/
theorem test_opcodeTable : opcodeTable.length = 39 ∧ (opcodeTable.map OpcodeRow.cmd).Nodup ∧
    ∀ row ∈ opcodeTable, legalCmd row.cmd = true ∧ formatOf row.cmd = some row.format := by decide
/-- R77: the table claims are stated with and the decoder's table, written apart, are the same, and so are its words. -/
theorem test_commandTable : commandTable = opcodeTable.map (fun row => (row.mnemonic, row.cmd, row.format.arity)) ∧
    legalCommandWords = commandTable.map (fun row => row.2.1) := by decide

/-! ### Decoding: the word of every command, from the table of R77 -/

theorem test_decode_tobits : decode ⟨0x00000001, 1, 2, 3, 4, 5⟩ = .ok (.tobits 1) := rfl
theorem test_decode_frombits : decode ⟨0x00000002, 1, 2, 3, 4, 5⟩ = .ok (.frombits 1) := rfl
theorem test_decode_abs : decode ⟨0x00000010, 1, 2, 3, 4, 5⟩ = .ok (.abs 1) := rfl
theorem test_decode_sign : decode ⟨0x00000011, 1, 2, 3, 4, 5⟩ = .ok (.sign 1) := rfl
theorem test_decode_copysign : decode ⟨0x00000012, 1, 2, 3, 4, 5⟩ = .ok (.copysign 1 2) := rfl
theorem test_decode_isnear : decode ⟨0x00000013, 1, 2, 3, 4, 5⟩ = .ok (.isnear 1 2 3) := rfl
theorem test_decode_isnan : decode ⟨0x00000014, 1, 2, 3, 4, 5⟩ = .ok (.isnan 1) := rfl
theorem test_decode_isinf : decode ⟨0x00000015, 1, 2, 3, 4, 5⟩ = .ok (.isinf 1) := rfl
theorem test_decode_floor : decode ⟨0x00000020, 1, 2, 3, 4, 5⟩ = .ok (.floor 1) := rfl
theorem test_decode_ceil : decode ⟨0x00000021, 1, 2, 3, 4, 5⟩ = .ok (.ceil 1) := rfl
theorem test_decode_round : decode ⟨0x00000022, 1, 2, 3, 4, 5⟩ = .ok (.round 1) := rfl
theorem test_decode_fract : decode ⟨0x00000023, 1, 2, 3, 4, 5⟩ = .ok (.fract 1) := rfl
theorem test_decode_fmod : decode ⟨0x00000024, 1, 2, 3, 4, 5⟩ = .ok (.fmod 1 2) := rfl
theorem test_decode_mod : decode ⟨0x00000025, 1, 2, 3, 4, 5⟩ = .ok (.mod 1 2) := rfl
theorem test_decode_invsqrt : decode ⟨0x00000030, 1, 2, 3, 4, 5⟩ = .ok (.invsqrt 1) := rfl
theorem test_decode_sqrt : decode ⟨0x00000031, 1, 2, 3, 4, 5⟩ = .ok (.sqrt 1) := rfl
theorem test_decode_hypot : decode ⟨0x00000032, 1, 2, 3, 4, 5⟩ = .ok (.hypot 1 2) := rfl
theorem test_decode_log : decode ⟨0x00000040, 1, 2, 3, 4, 5⟩ = .ok (.log 1) := rfl
theorem test_decode_log2 : decode ⟨0x00000041, 1, 2, 3, 4, 5⟩ = .ok (.log2 1) := rfl
theorem test_decode_exp : decode ⟨0x00000042, 1, 2, 3, 4, 5⟩ = .ok (.exp 1) := rfl
theorem test_decode_pow : decode ⟨0x00000043, 1, 2, 3, 4, 5⟩ = .ok (.pow 1 2) := rfl
theorem test_decode_sin : decode ⟨0x00000050, 1, 2, 3, 4, 5⟩ = .ok (.sin 1) := rfl
theorem test_decode_cos : decode ⟨0x00000051, 1, 2, 3, 4, 5⟩ = .ok (.cos 1) := rfl
theorem test_decode_tan : decode ⟨0x00000052, 1, 2, 3, 4, 5⟩ = .ok (.tan 1) := rfl
theorem test_decode_atan : decode ⟨0x00000053, 1, 2, 3, 4, 5⟩ = .ok (.atan 1) := rfl
theorem test_decode_atan2 : decode ⟨0x00000054, 1, 2, 3, 4, 5⟩ = .ok (.atan2 1 2) := rfl
theorem test_decode_asin : decode ⟨0x00000055, 1, 2, 3, 4, 5⟩ = .ok (.asin 1) := rfl
theorem test_decode_acos : decode ⟨0x00000056, 1, 2, 3, 4, 5⟩ = .ok (.acos 1) := rfl
theorem test_decode_deg2rad : decode ⟨0x00000057, 1, 2, 3, 4, 5⟩ = .ok (.deg2rad 1) := rfl
theorem test_decode_rad2deg : decode ⟨0x00000058, 1, 2, 3, 4, 5⟩ = .ok (.rad2deg 1) := rfl
theorem test_decode_lerp : decode ⟨0x00000060, 1, 2, 3, 4, 5⟩ = .ok (.lerp 1 2 3) := rfl
theorem test_decode_invlerp : decode ⟨0x00000061, 1, 2, 3, 4, 5⟩ = .ok (.invlerp 1 2 3) := rfl
theorem test_decode_remap : decode ⟨0x00000062, 1, 2, 3, 4, 5⟩ = .ok (.remap 1 2 3 4 5) := rfl
theorem test_decode_step : decode ⟨0x00000063, 1, 2, 3, 4, 5⟩ = .ok (.step 1 2) := rfl
theorem test_decode_smoothstep : decode ⟨0x00000064, 1, 2, 3, 4, 5⟩ = .ok (.smoothstep 1 2 3) := rfl
theorem test_decode_smootherstep : decode ⟨0x00000065, 1, 2, 3, 4, 5⟩ = .ok (.smootherstep 1 2 3) := rfl
theorem test_decode_clamp : decode ⟨0x00000066, 1, 2, 3, 4, 5⟩ = .ok (.clamp 1 2 3) := rfl
theorem test_decode_min : decode ⟨0x00000067, 1, 2, 3, 4, 5⟩ = .ok (.min 1 2) := rfl
theorem test_decode_max : decode ⟨0x00000068, 1, 2, 3, 4, 5⟩ = .ok (.max 1 2) := rfl

/-! ### Results: operands and words written out in the spec, under `CFG_REF` -/

/-- R91 example: a signalling NaN keeps its payload. -/
theorem test_tobits : answer (.tobits 0x7FA00001) = [⟨0x7FA00001, false⟩] := by decide
/-- R92 corner case. -/
theorem test_frombits : answer (.frombits 0x7F800001) = [⟨0x7F800001, false⟩] := by decide
/-- R100 example. -/
theorem test_abs : answer (.abs 0xBFC00000) = [⟨0x3FC00000, false⟩] := by decide
/-- R100 corner case: a NaN keeps its mantissa. -/
theorem test_abs_corner : answer (.abs 0xFFC00001) = [⟨0x7FC00001, false⟩] := by decide
/-- R101 example. -/
theorem test_sign : answer (.sign 0xC0000000) = [⟨0xBF800000, false⟩] := by decide
/-- R101 corner case: a subnormal is not zero. -/
theorem test_sign_corner : answer (.sign 0x00000001) = [⟨0x3F800000, false⟩] := by decide
/-- R102 example. -/
theorem test_copysign : answer (.copysign 0x40400000 0x80000000) = [⟨0xC0400000, false⟩] := by decide
/-- R102 corner case. -/
theorem test_copysign_corner : answer (.copysign 0x40200000 0xFFC00000) = [⟨0xC0200000, false⟩] := by decide
/-- R103 example. -/
theorem test_isnear : answer (.isnear 0x3F800000 0x3F866666 0x3DCCCCCD) = [⟨0x00000001, false⟩] := by decide
/-- R103 corner case: Inf - Inf is NaN. -/
theorem test_isnear_corner : answer (.isnear 0x7F800000 0x7F800000 0x7F800000) = [⟨0x00000000, false⟩] := by decide
/-- R104 example. -/
theorem test_isnan : answer (.isnan 0x7F800001) = [⟨0x00000001, false⟩] := by decide
/-- R104 example. -/
theorem test_isnan_corner : answer (.isnan 0x7F800000) = [⟨0x00000000, false⟩] := by decide
/-- R105 example. -/
theorem test_isinf : answer (.isinf 0xFF800000) = [⟨0x00000001, false⟩] := by decide
/-- R105 corner case. -/
theorem test_isinf_corner : answer (.isinf 0x7F7FFFFF) = [⟨0x00000000, false⟩] := by decide
/-- R122 example. -/
theorem test_floor : answer (.floor 0xC02CCCCD) = [⟨0xC0400000, false⟩] := by decide
/-- R122 corner case: the smallest negative subnormal. -/
theorem test_floor_corner : answer (.floor 0x80000001) = [⟨0xBF800000, false⟩] := by decide
/-- R123 example. -/
theorem test_ceil : answer (.ceil 0x40066666) = [⟨0x40400000, false⟩] := by decide
/-- R123 corner case: a negative zero result is +0. -/
theorem test_ceil_corner : answer (.ceil 0xBF000000) = [⟨0x00000000, false⟩] := by decide
/-- R124 example. -/
theorem test_round : answer (.round 0x40200000) = [⟨0x40400000, false⟩] := by decide
/-- R124 corner case: the largest scalar below one half. -/
theorem test_round_corner : answer (.round 0x3EFFFFFF) = [⟨0x3F800000, false⟩] := by decide
/-- R125 example. -/
theorem test_fract : answer (.fract 0x40300000) = [⟨0x3F400000, false⟩] := by decide
/-- R125 corner case: the result can be 1.0. -/
theorem test_fract_corner : answer (.fract 0x80000001) = [⟨0x3F800000, false⟩] := by decide
/-- R126 example. -/
theorem test_fmod : answer (.fmod 0xC0B00000 0x40000000) = [⟨0xBFC00000, false⟩] := by decide
/-- R126 corner case: the guard. -/
theorem test_fmod_corner : answer (.fmod 0x40A00000 0x33FFFFFF) = [⟨0x00000000, false⟩] := by decide
/-- R127 example. -/
theorem test_mod : answer (.mod 0xC0B00000 0x40000000) = [⟨0x3F000000, false⟩] := by decide
/-- R127 corner case: MOD(-1, 360) = 359. -/
theorem test_mod_corner : answer (.mod 0xBF800000 0x43B40000) = [⟨0x43B38000, false⟩] := by decide
/-- R140 example. -/
theorem test_invsqrt : answer (.invsqrt 0x41C80000) = [⟨0x3E4C7B79, false⟩] := by decide
/-- R140 corner case: no guard. -/
theorem test_invsqrt_corner : answer (.invsqrt 0xBF800000) = [⟨0xFF800000, false⟩] := by decide +kernel
/-- R141 example. -/
theorem test_sqrt : answer (.sqrt 0x40000000) = [⟨0x3FB504F4, false⟩] := by decide
/-- R141 corner case. -/
theorem test_sqrt_corner : answer (.sqrt 0x7F800000) = [⟨0x7FC00000, false⟩] := by decide
/-- R142 example. -/
theorem test_hypot : answer (.hypot 0x40400000 0x40800000) = [⟨0x40A0000C, false⟩] := by decide
/-- R142 corner case: a NaN first operand. -/
theorem test_hypot_corner : answer (.hypot 0x7FC00000 0x3F800000) = [⟨0x3FB504F4, false⟩] := by decide
/-- R160 example. -/
theorem test_log : answer (.log 0x41200000) = [⟨0x40135D8E, false⟩] := by decide
/-- R160 corner case: a subnormal. -/
theorem test_log_corner : answer (.log 0x00000001) = [⟨0xC2B00F34, false⟩] := by decide
/-- R161 example. -/
theorem test_log2 : answer (.log2 0x41200000) = [⟨0x40549A78, false⟩] := by decide
/-- R161 corner case. -/
theorem test_log2_corner : answer (.log2 0x7F800000) = [⟨0x43000000, false⟩] := by decide
/-- R162 example. -/
theorem test_exp : answer (.exp 0x41200000) = [⟨0x46AC09CF, false⟩] := by decide
/-- R162 corner case: EXP(-87.5), exponent field 0. -/
theorem test_exp_corner : answer (.exp 0xC2AF0000) = [⟨0x00000000, false⟩] := by decide
/-- R163 example. -/
theorem test_pow : answer (.pow 0x40000000 0x41200000) = [⟨0x44800000, false⟩] := by decide
/-- R163 corner case: the base test comes first. -/
theorem test_pow_corner : answer (.pow 0x00000000 0x00000000) = [⟨0x00000000, false⟩] := by decide
/-- R180 example. -/
theorem test_sin : answer (.sin 0x3F800000) = [⟨0x3F576AA5, false⟩] := by decide
/-- R180 corner case: SIN(-0) = -0. -/
theorem test_sin_corner : answer (.sin 0x80000000) = [⟨0x80000000, false⟩] := by decide
/-- R181 example. -/
theorem test_cos : answer (.cos 0x3F800000) = [⟨0x3F0A513F, false⟩] := by decide
/-- R181 corner case: not exactly even. -/
theorem test_cos_corner : answer (.cos 0xBF800000) = [⟨0x3F0A5141, false⟩] := by decide
/-- R182 example. -/
theorem test_tan : answer (.tan 0x3F800000) = [⟨0x3FC75926, false⟩] := by decide
/-- R182 corner case: the asymptote guard. -/
theorem test_tan_corner : answer (.tan 0x3FC90FDB) = [⟨0x00000000, false⟩] := by decide
/-- R183 example. -/
theorem test_atan : answer (.atan 0x40000000) = [⟨0x3F8DB6F4, false⟩] := by decide
/-- R183 corner case. -/
theorem test_atan_corner : answer (.atan 0xFF800000) = [⟨0xBFC90FDB, false⟩] := by decide
/-- R184 example. -/
theorem test_atan2 : answer (.atan2 0x3F800000 0xBF800000) = [⟨0x4016CBB4, false⟩] := by decide
/-- R184 corner case: -0 is non-negative. -/
theorem test_atan2_corner : answer (.atan2 0x80000000 0xBF800000) = [⟨0x40490FDB, false⟩] := by decide
/-- R185 example. -/
theorem test_asin : answer (.asin 0x3F000000) = [⟨0x3F060A0A, false⟩] := by decide
/-- R185 corner case: clamped. -/
theorem test_asin_corner : answer (.asin 0x7F800000) = [⟨0x3FC90FDB, false⟩] := by decide
/-- R186 example. -/
theorem test_acos : answer (.acos 0x3F000000) = [⟨0x3F860AD6, false⟩] := by decide
/-- R186 corner case: clamped. -/
theorem test_acos_corner : answer (.acos 0xC0000000) = [⟨0x40490FDB, false⟩] := by decide
/-- R187 example. -/
theorem test_deg2rad : answer (.deg2rad 0x43340000) = [⟨0x40490FDB, false⟩] := by decide
/-- R188 example. -/
theorem test_rad2deg : answer (.rad2deg 0x40490FDB) = [⟨0x43340000, false⟩] := by decide
/-- R210 example. -/
theorem test_lerp : answer (.lerp 0x00000000 0x42C80000 0x3F000000) = [⟨0x42480000, false⟩] := by decide
/-- R210 corner case: an infinite end point of weight zero. -/
theorem test_lerp_corner : answer (.lerp 0x7F800000 0x00000000 0x3F800000) = [⟨0x7FC00000, false⟩] := by decide
/-- R211 example. -/
theorem test_invlerp : answer (.invlerp 0x00000000 0x42C80000 0x41C80000) = [⟨0x3E800000, false⟩] := by decide
/-- R211 corner case: a reversed span. -/
theorem test_invlerp_corner : answer (.invlerp 0x41200000 0x00000000 0x40200000) = [⟨0x3F400000, false⟩] := by decide
/-- R212 example. -/
theorem test_remap : answer (.remap 0x00000000 0x41200000 0x00000000 0x42C80000 0x40A00000) = [⟨0x42480000, false⟩] := by decide
/-- R212 corner case: an inverted output range. -/
theorem test_remap_corner : answer (.remap 0x00000000 0x41200000 0x42C80000 0x00000000 0x40200000) = [⟨0x42960000, false⟩] := by decide
/-- R213 example. -/
theorem test_step : answer (.step 0x3F000000 0x3E800000) = [⟨0x00000000, false⟩] := by decide
/-- R213 corner case: zeros of either sign are equal. -/
theorem test_step_corner : answer (.step 0x00000000 0x80000000) = [⟨0x3F800000, false⟩] := by decide
/-- R214 example. -/
theorem test_smoothstep : answer (.smoothstep 0x00000000 0x3F800000 0x3E800000) = [⟨0x3E200000, false⟩] := by decide
/-- R214 corner case: equal edges. -/
theorem test_smoothstep_corner : answer (.smoothstep 0x3F800000 0x3F800000 0x3F800000) = [⟨0x7FC00000, false⟩] := by decide
/-- R215 example. -/
theorem test_smootherstep : answer (.smootherstep 0x00000000 0x3F800000 0x3F400000) = [⟨0x3F658000, false⟩] := by decide
/-- R215 corner case: the upper edge. -/
theorem test_smootherstep_corner : answer (.smootherstep 0x00000000 0x3F800000 0x3F800000) = [⟨0x3F800000, false⟩] := by decide
/-- R216 example. -/
theorem test_clamp : answer (.clamp 0x41700000 0x00000000 0x41200000) = [⟨0x41200000, false⟩] := by decide
/-- R216 corner case: reversed bounds. -/
theorem test_clamp_corner : answer (.clamp 0x41700000 0x41200000 0x00000000) = [⟨0x00000000, false⟩] := by decide
/-- R217 example. -/
theorem test_min : answer (.min 0x3F800000 0x40000000) = [⟨0x3F800000, false⟩] := by decide
/-- R217 corner case: the second of equal operands. -/
theorem test_min_corner : answer (.min 0x00000000 0x80000000) = [⟨0x80000000, false⟩] := by decide
/-- R218 example. -/
theorem test_max : answer (.max 0x3F800000 0x40000000) = [⟨0x40000000, false⟩] := by decide
/-- R218 corner case: a NaN first operand. -/
theorem test_max_corner : answer (.max 0x7FC00000 0x3F800000) = [⟨0x3F800000, false⟩] := by decide

/-! ### The machine -/

/-- The table's word 0x00000065 is `SMOOTHERSTEP`; the rest of the frame is zero. -/
theorem test_decodeTableWord : decodeTableWord 32 0x00000065 = some (.smootherstep 0 0 0) ∧
    decodeTableWord 32 0x00000165 = none := ⟨rfl, rfl⟩
/-- The step after withFetchWord runs the word's command: `COS +0 -> 0x3F80001E` (R189). -/
theorem test_withFetchWord : step (State.reset.withFetchWord 32 0x00000051) =
    .next { State.reset with responses := [⟨0x3F80001E, false⟩] } := rfl
/-- R250: the reset state stays as it is. -/
theorem test_reset_idle : step State.reset = .next State.reset := rfl
/-- P5 of 95_test_vectors.md: an illegal command is answered in its place and is not sticky. -/
theorem test_fault_not_sticky : Host.Core.run Sys2Proof.core 3 (flying [zeroFrame, absFrame]) =
    .next { State.reset with responses := [⟨0, true⟩, ⟨0x3FC00000, false⟩] } := rfl
/-- R63, R65: two requests accepted before the first is answered, answered in order. -/
theorem test_overlap_keeps_order :
    Host.Core.run Sys2Proof.core 5 { State.reset with requests := [absFrame, zeroFrame], pace := [.accept, .accept, .wait] } =
      .next { State.reset with responses := [⟨0x3FC00000, false⟩, ⟨0, true⟩] } := rfl
/-- R251: a command in flight when reset is asserted gives no response. -/
theorem test_reset_drops : step ((flying [absFrame]).assertReset.present zeroFrame) =
    .next { State.reset with rst := true, requests := [zeroFrame] } := rfl
/-- P1 of 95_test_vectors.md: REMAP against its two parts, the second line using the first one's result. -/
theorem test_listing_P1 : runListing cfgRef
    [⟨"INVLERP", [.decimal false 0 0, .decimal false 10 0, .decimal false 50 (-1)]⟩,
     ⟨"LERP", [.hex 0, .decimal false 1 2, .result 0]⟩,
     ⟨"REMAP", [.decimal false 0 0, .decimal false 10 0, .decimal false 0 0, .decimal false 100 0, .decimal false 5 0]⟩] [] =
    some [⟨0x3F000000, false⟩, ⟨0x42480000, false⟩, ⟨0x42480000, false⟩] := by decide
/-- R79: decimal literals of the spec: 0.1 is 0x3DCCCCCD, -0.0 is 0x80000000, 1e40 rounds to +Inf. -/
theorem test_decimal : decimalWord false 1 (-1) = 0x3DCCCCCD ∧ decimalWord true 0 0 = 0x80000000 ∧
    decimalWord false 1 40 = 0x7F800000 := by decide +kernel

/-! ### Witnesses: the hypotheses of the statements are met -/

theorem hyp_DecodeEncodeRoundTrip : (Instr.remap 1 2 3 4 5).wellFormed = true ∧
    Frame.assembled ⟨0x00000062, 1, 2, 3, 4, 5⟩ = true ∧
    decode ⟨0x00000062, 1, 2, 3, 4, 5⟩ = .ok (.remap 1 2 3 4 5) ∧ decode absFrame = .ok (.abs 0xBFC00000) :=
  ⟨rfl, by decide, rfl, rfl⟩

theorem hyp_LegalExactlyThe39CommandWords : zeroFrame.cmd ∉ legalCommandWords ∧ absFrame.cmd ∈ legalCommandWords := by decide

theorem hyp_AssemblerWritesAssembledFrames_accepts : ("ABS", (0x00000010 : Word), 1) ∈ commandTable ∧
    [AsmOperand.decimal true 15 (-1)].mapM (asmWord []) = some [0xBFC00000] ∧ [(0xBFC00000 : Word)].length = 1 := by decide
theorem hyp_AssemblerWritesAssembledFrames_result : ("REMAP", (0x00000062 : Word), 5) ∈ commandTable ∧
    [AsmOperand.hex 1, .plusInf, .minusInf, .quietNaN, .result 0].mapM (asmWord [9]) =
      some [1, 0x7F800000, 0xFF800000, 0x7FC00000, 9] := by decide
theorem hyp_AssemblerWritesAssembledFrames_accepted : assemble [] ⟨"ABS", [.decimal true 15 (-1)]⟩ =
    some ⟨0x00000010, 0xBFC00000, 0, 0, 0, 0⟩ := by decide

theorem hyp_StepRunsDecodedCommand : AboutToAnswer (flying [absFrame, zeroFrame]) absFrame [zeroFrame] ∧
    AboutToAnswer { flying [absFrame] with pace := [.answer, .wait] } absFrame [] ∧ decode absFrame = .ok (.abs 0xBFC00000) :=
  ⟨⟨rfl, rfl, .inl rfl⟩, ⟨rfl, rfl, .inr ⟨_, rfl⟩⟩, rfl⟩

theorem hyp_IllegalCommandIsAnsweredWithFault : (0x00000069 : Word) ∉ legalCommandWords ∧ (0x00000068 : Word) ∈ legalCommandWords := by
  decide

theorem hyp_ResponseDependsOnRequestAlone : State.reset.cfg = (flying [zeroFrame]).cfg ∧
    absFrame.cmd = (⟨0x00000010, 0xBFC00000, 0, 0, 0, 9⟩ : Frame).cmd ∧
    absFrame.usedOperands = Frame.usedOperands ⟨0x00000010, 0xBFC00000, 0, 0, 0, 9⟩ := by decide

theorem hyp_ConstantStoreNeverWritten : step State.reset = .next State.reset ∧
    State.takeResponse { State.reset with responses := [⟨1, false⟩] } = some (⟨1, false⟩, State.reset) := ⟨rfl, rfl⟩

theorem hyp_StepKeepsLedger : (flying [absFrame]).rst = false ∧ ledger (flying [absFrame]) = [⟨0x3FC00000, false⟩] ∧
    step (flying [absFrame]) = .next { State.reset with responses := [⟨0x3FC00000, false⟩] } := ⟨rfl, by decide, rfl⟩

theorem hyp_StepKeepsResponseForm : responsesWellFormed (flying [zeroFrame]) ∧
    step (flying [zeroFrame]) = .next { State.reset with responses := [⟨0, true⟩] } := by
  refine ⟨?_, rfl⟩
  intro x hx
  simp [flying, State.reset, State.idle] at hx

theorem hyp_EveryRequestIsAnswered : State.rst { State.reset with requests := [absFrame], pace := [.wait] } = false := rfl

theorem hyp_ResetLeavesNoTrace : (flying [absFrame]).cfg = State.reset.cfg ∧ (flying [absFrame]).requests = [] ∧
    State.reset.requests = [] ∧ (flying [absFrame]).pace = State.reset.pace := by decide
theorem hyp_ResetLeavesNoTrace_paced :
    State.pace { flying [absFrame] with pace := [.wait, .answer] } = State.pace { State.reset with pace := [.wait, .answer] } ∧
    State.cfg { flying [absFrame] with pace := [.wait, .answer] } = State.cfg { State.reset with pace := [.wait, .answer] } := by
  decide

theorem hyp_AcceptanceIsOneEvent_paced :
    State.rst { flying [zeroFrame] with requests := [absFrame], pace := [.accept] } = false ∧
    State.requests { flying [zeroFrame] with requests := [absFrame], pace := [.accept] } = [absFrame] ∧
    ∃ p, State.pace { flying [zeroFrame] with requests := [absFrame], pace := [.accept] } = .accept :: p := ⟨rfl, rfl, [], rfl⟩
theorem hyp_AcceptanceIsOneEvent_free : State.rst { State.reset with requests := [absFrame] } = false ∧
    State.requests { State.reset with requests := [absFrame] } = [absFrame] ∧
    State.pace { State.reset with requests := [absFrame] } = [] ∧ State.inFlight { State.reset with requests := [absFrame] } = [] :=
  ⟨rfl, rfl, rfl, rfl⟩

theorem hyp_HostPresentsAndTakesInOrder : State.reset.responses = [] ∧
    State.responses { State.reset with responses := [⟨0, true⟩] } = [⟨0, true⟩] := ⟨rfl, rfl⟩

theorem hyp_ValuesOfWords : (expField 0x7F800001 = 255 ∧ mantissa 0x7F800001 ≠ 0) ∧
    (expField 0xFF800000 = 255 ∧ mantissa 0xFF800000 = 0) ∧ expField 0x7F7FFFFF ≠ 255 := by decide

theorem hyp_SumIsCorrectlyRounded : isFinite 0x7F7FFFFF = true ∧ isFinite 0x80000001 = true := by decide
theorem hyp_ProductIsCorrectlyRounded : isFinite 0x7F7FFFFF = true ∧ isFinite 0x00000001 = true := by decide
theorem hyp_QuotientIsCorrectlyRounded :
    isFinite 0x7F7FFFFF = true ∧ isFinite 0x00000001 = true ∧ realVal 0x00000001 ≠ 0 := by decide +kernel

theorem hyp_SpecialOperandsOfPrimitives_inf : isNaN 0x3F800000 = false ∧ isNaN 0xFF800000 = false ∧
    isFinite 0x3F800000 = true ∧ isInf 0xFF800000 = true := by decide
theorem hyp_SpecialOperandsOfPrimitives_zeroSum : isFinite 0x80000000 = true ∧ isFinite 0x3F800000 = true ∧
    realVal 0x80000000 + realVal 0x80000000 = 0 ∧ realVal 0x3F800000 + realVal 0xBF800000 = 0 := by decide +kernel
theorem hyp_SpecialOperandsOfPrimitives_product : isInf 0x7F800000 = true ∧ realVal 0x00000001 ≠ 0 ∧ isInf 0xFF800000 = true ∧
    isNaN (fmul 0x7F800000 0x00000001) = false ∧ isNaN (fdiv 0x3F800000 0x00000000) = false := by decide +kernel
theorem hyp_SpecialOperandsOfPrimitives_quotient : isFinite 0x00000001 = true ∧ isFinite 0x80000000 = true ∧
    realVal 0x00000001 ≠ 0 ∧ realVal 0x80000000 = 0 := by decide +kernel

theorem hyp_PrimitivesGiveOneNaN : (0x7FC00000 : Word) = fadd 0x7F800000 0xFF800000 ∧ isNaN 0x7FC00000 = true := by decide

theorem hyp_NegationFlipsTheSignBit : 31 < 32 ∧ 30 < 32 := by decide

theorem hyp_ConversionsAreExact : expField 0xCAFFFFFF < 150 ∧ (-8388607 : Int) ≤ -8388607 ∧ (8388607 : Int) ≤ 8388607 := by decide

theorem hyp_AbsIsEvenAndNonNegative : isNaN 0x80000000 = false ∧ isNaN 0xFF800001 = true := by decide

theorem hyp_SignByValue : isNaN 0xFFC00000 = true ∧ (isNaN 0x00000001 = false ∧ 0 < extVal 0x00000001) ∧
    (isNaN 0x80000001 = false ∧ extVal 0x80000001 < 0) ∧ (isNaN 0x80000000 = false ∧ extVal 0x80000000 = 0) := by decide +kernel

theorem hyp_LargeMagnitudeGuard : isNaN 0x4AFFFFFF = false ∧ isNaN 0x7F800001 = true ∧ isInf 0x7F800000 = true ∧
    big 0x4B000000 = true ∧ big 0x4AFFFFFF = false := by decide

theorem hyp_TruncIsTowardZero : 150 ≤ expField 0xCB000000 ∧ isFinite 0xBF7FFFFF = true ∧ |realVal 0xBF7FFFFF| < 1 := by
  decide +kernel

theorem hyp_FloorAndCeilAreExact : isFinite 0x80000001 = true ∧ isFinite 0x4AFFFFFF = true ∧ isFinite 0x00000001 = true ∧
    floorWord 0x00000001 = 0x00000000 ∧ ceilWord 0x80000001 = 0x00000000 ∧ realVal 0x00000000 = 0 := by decide +kernel

theorem hyp_RoundTakesHalvesAwayFromZero : isFinite 0x4B000000 = true ∧ realVal 0x4B000000 = (8388608 : ℤ) ∧
    isFinite 0x3F000000 = true ∧ realVal 0x3F000000 = (0 : ℤ) + 1 / 2 ∧ 0 < realVal 0x3F000000 ∧
    isFinite 0xBF000000 = true ∧ realVal 0xBF000000 = (-1 : ℤ) + 1 / 2 ∧ realVal 0xBF000000 < 0 := by decide +kernel

theorem hyp_FractOfLargeOperands : (isFinite 0x4B000000 = true ∧ 150 ≤ expField 0x4B000000) ∧ isFinite 0x7F800000 = false := by
  decide

theorem hyp_ModuloGuards : flt 0x00000000 State.reset.cfg.epsDiv = true ∧ isNaN 0x7F800001 = true := by decide

theorem hyp_DomainSentinels : (isNaN 0x80000000 = false ∧ extVal 0x80000000 ≤ 0) ∧ (isNaN 0xFF800000 = false ∧ extVal 0xFF800000 ≤ 0) ∧
    (isNaN 0x00000001 = false ∧ 0 < extVal 0x00000001) ∧ isNaN 0xFF800001 = true := by decide +kernel

theorem hyp_HypotIsSymmetric : (isNaN 0x00000000 = false ∧ isNaN 0x80000000 = false ∧ isFinite 0x00000000 = true ∧
    isFinite 0x80000000 = true ∧ realVal 0x00000000 = 0 ∧ realVal 0x80000000 = 0) ∧
    (isNaN 0x7F800000 = false ∧ isInf 0x7F800000 = true ∧ isInf 0xFF800000 = true) := by decide +kernel

theorem hyp_ExpInjection : isNaN 0x7F800001 = true ∧ (1 : Int) ≤ (expField 0x3F000000 : Int) + (-125) ∧
    (expField 0x3F800000 : Int) + 127 ≤ 254 := by decide

theorem hyp_TrigOfNonFinite : isFinite 0xFF800000 = false ∧ isFinite 0x7F800001 = false := by decide

theorem hyp_Atan2OnTheAxis : (isNaN 0x00000001 = false ∧ 0 < extVal 0x00000001) ∧ (isNaN 0xFF800000 = false ∧ extVal 0xFF800000 < 0) ∧
    isNaN 0x7FC00000 = true ∧ extVal 0x80000000 = 0 := by decide +kernel

theorem hyp_AsinClampsItsOperand : (isNaN 0x7F800000 = false ∧ extVal 0x3F800000 ≤ extVal 0x7F800000) ∧
    (isNaN 0xBF800000 = false ∧ extVal 0xBF800000 ≤ extVal 0xBF800000) ∧ isNaN 0xFFC00000 = true ∧ State.reset.cfg = cfgRef := by
  decide +kernel

theorem hyp_LerpReproducesEndPoints : isFinite 0xFF7FFFFF = true ∧ isFinite 0x7F7FFFFF = true := by decide

theorem hyp_InvLerpOfEqualEndPoints : isFinite 0x80000000 = true ∧ isFinite 0x00000001 = true ∧ isFinite 0x80000001 = true ∧
    realVal 0x00000000 = realVal 0x80000000 ∧ realVal 0x80000000 < realVal 0x00000001 ∧ realVal 0x80000001 < realVal 0x80000000 := by
  decide +kernel

theorem hyp_ClampIsIdempotent : fle 0x80000000 0x00000000 = true ∧ isNaN 0xFF800000 = false := by decide

theorem hyp_MinMaxPickAnOperand : (isNaN 0x00000000 = false ∧ isNaN 0x80000000 = false) ∧ isNaN 0x7F800001 = true ∧
    feq 0x00000000 0x80000000 = true := by decide

theorem hyp_StepIsThreshold : isNaN 0x7FC00000 = true ∧
    (isNaN 0x3F800000 = false ∧ isNaN 0x3F7FFFFF = false ∧ extVal 0x3F7FFFFF < extVal 0x3F800000) ∧
    extVal 0x00000000 ≤ extVal 0x80000000 := by decide +kernel

end Sys2Proof.Tests
end

section
/-! The unit's steps: the order of responses, what a step runs, and that no step stops (O12, O6, O9, O10). -/

namespace Sys2Proof.Proofs

open Sys2Proof.Machine Sys2Proof.Safety

/-- The ledger in terms of the requests still to be answered, oldest first. -/
theorem ledger_eq_of_sequence {s t : State} (hcfg : t.cfg = s.cfg) (hresp : t.responses = s.responses)
    (hseq : t.inFlight ++ t.requests = s.inFlight ++ s.requests) : ledger t = ledger s := by
  simp only [ledger, hcfg, hresp, hseq]

/-- Acceptance moves a request between two parts of the ledger that stand next to each other. -/
theorem ledger_acceptOldest (s : State) : ledger s.acceptOldest = ledger s :=
  ledger_eq_of_sequence s.acceptOldest_cfg s.acceptOldest_responses s.acceptOldest_sequence

/-- Answering the oldest command in flight moves its response from the ledger's middle part to the end of its first. -/
theorem ledger_answer {s : State} {f : Frame} {fs : List Frame} (p : List Pace) (h : s.inFlight = f :: fs) :
    ledger ({ s with inFlight := fs, pace := p }.deliver (responseTo s.cfg f)) = ledger s := by
  simp [ledger, h]

/-- Settles O12: outside reset a step is an acceptance, an answer or a wait, and each keeps the ledger. -/
theorem stepKeepsLedger : Obligations.StepKeepsLedger := by
  rintro s t l ⟨hrst, rfl⟩ hstep
  obtain ⟨hr, -⟩ | ⟨-, p, -, hacc | ⟨f, fs, hf, hans⟩ | hwait⟩ := step_cases s
  · simp [hrst] at hr
  · cases hacc.symm.trans hstep
    exact ⟨by simpa using hrst, ledger_acceptOldest _⟩
  · cases hans.symm.trans hstep
    exact ⟨hrst, ledger_answer p hf⟩
  · cases hwait.symm.trans hstep
    exact ⟨hrst, rfl⟩

/-- Settles O6: answering a frame that decodes to a command is executing that command. -/
theorem stepRunsDecodedCommand : Obligations.StepRunsDecodedCommand := by
  intro s f rest h
  refine ⟨fun i hi => ?_, step_of_aboutToAnswer h⟩
  rw [step_of_aboutToAnswer h, answerFrame, hi]

/-- Settles O9: everything a step can do is a next state. -/
theorem stepNeverStops : Obligations.StepNeverStops := by
  intro s
  obtain ⟨-, h⟩ | ⟨-, p, -, h | ⟨f, fs, -, h⟩ | h⟩ := step_cases s <;> exact ⟨_, h⟩

/-- Settles O10: the result word is the one of the command's rule. -/
theorem legalCommandNeverFaults : Obligations.LegalCommandNeverFaults :=
  fun i s => ⟨resultOf s.cfg i, exec_eq_deliver i s⟩

end Sys2Proof.Proofs
end

section
/-! Decoding by the used operand words only (R24, R41), and the response as a function of the request (O8). -/

namespace Sys2Proof.Proofs

open Sys2Proof.Machine Sys2Proof.Safety

/-- The command word of an encoded command says how many operand words the command uses. -/
theorem arityOf_encode (i : Instr) : arityOf (encode i).cmd = i.format.arity := by
  cases i <;> (simp only [encode]; rfl)

/-- A frame with a command's first operand words, read under that command's opcode, decodes to the command. -/
theorem decodeOp_of_operands {f : Frame} (i : Instr) (h : i.operands = f.operands.take i.format.arity) :
    decodeOp (opcodeOf (encode i).cmd) f = some i := by
  cases i <;>
    (simp [Instr.operands, Instr.format, Format.arity, Frame.operands] at h
     simp only [encode]
     simp only [h]
     rfl)

/-- The reserved bits and the opcode of a command word are the word (R71). -/
theorem cmd_encode_eq_iff {f : Frame} {i : Instr} :
    (encode i).cmd = f.cmd ↔ cmdReserved f.cmd = 0 ∧ opcodeOf (encode i).cmd = opcodeOf f.cmd := by
  refine ⟨fun h => h ▸ ⟨cmdReserved_encode i, rfl⟩, fun ⟨hr, ho⟩ => ?_⟩
  rw [cmd_eq_of_reserved_zero hr, ← ho, ← cmd_eq_of_reserved_zero (cmdReserved_encode i)]

/-- A frame decodes to a command exactly where it has the command's word and, as its used operand words, the command's
operands: the decoder sees nothing else of a frame (R41). -/
theorem decode_eq_ok_iff {f : Frame} {i : Instr} :
    decode f = .ok i ↔ (encode i).cmd = f.cmd ∧ i.operands = f.usedOperands := by
  rw [decode_eq_ok]
  constructor
  · rintro ⟨hr, hd⟩
    obtain ⟨hop, hargs⟩ := decodeOp_eq_some hd
    have hcmd := cmd_encode_eq_iff.2 ⟨hr, hop⟩
    exact ⟨hcmd, by rw [hargs, Frame.usedOperands, ← hcmd, arityOf_encode]⟩
  · rintro ⟨hcmd, hargs⟩
    rw [Frame.usedOperands, ← hcmd, arityOf_encode] at hargs
    exact ⟨hcmd ▸ cmdReserved_encode i, hcmd ▸ decodeOp_of_operands i hargs⟩

/-- R24: the response depends on the command word and the used operand words alone. -/
theorem responseTo_congr (cfg : Cfg) {f g : Frame} (hcmd : f.cmd = g.cmd) (hargs : f.usedOperands = g.usedOperands) :
    responseTo cfg f = responseTo cfg g := by
  have hiff (i : Instr) : decode f = .ok i ↔ decode g = .ok i := by
    rw [decode_eq_ok_iff, decode_eq_ok_iff, hcmd, hargs]
  unfold responseTo
  cases hf : decode f with
  | ok i => simp only [(hiff i).1 hf]
  | error _ =>
    cases hg : decode g with
    | ok j => cases hf.symm.trans ((hiff j).2 hg)
    | error _ => rfl

/-- Settles O8: both states deliver the one response of the request, under their common `CFG`. -/
theorem responseDependsOnRequestAlone : Obligations.ResponseDependsOnRequestAlone := by
  intro s t f g hcfg hcmd hargs
  refine ⟨responseTo s.cfg f, answerFrame_eq_deliver f s, ?_⟩
  rw [responseTo_congr s.cfg hcmd hargs, hcfg]
  exact answerFrame_eq_deliver g t

end Sys2Proof.Proofs
end

section
/-! The assembler against the table of R77 (O4). -/

namespace Sys2Proof.Proofs

open Sys2Proof.Machine Sys2Proof.Safety

/-- The table of R77 as the claims write it is the opcode map's own. -/
theorem commandTable_eq : commandTable = opcodeTable.map fun r => (r.mnemonic, r.cmd, r.format.arity) := rfl

/-- Looking a row of the opcode map up by its mnemonic finds that row: no two rows share a mnemonic. -/
theorem find_mnemonic_of_mem :
    ∀ row ∈ opcodeTable, opcodeTable.find? (fun r => r.mnemonic == row.mnemonic) = some row := by decide

/-- Every row's command word is legal and uses as many operand words as the row's format. -/
theorem legalCmd_and_arityOf_of_mem :
    ∀ row ∈ opcodeTable, legalCmd row.cmd = true ∧ arityOf row.cmd = row.format.arity := by decide

theorem arity_le_five (fmt : Format) : fmt.arity ≤ 5 := by cases fmt <;> decide

/-- The frame of a command word and some operand words, in order, with zeros after them (R79). -/
def paddedFrame (cmd : Word) (ws : List Word) : Frame :=
  ⟨cmd, ws.getD 0 0, ws.getD 1 0, ws.getD 2 0, ws.getD 3 0, ws.getD 4 0⟩

/-- Where a command uses as many operand words as a padded frame was given, those are the used ones and the others are zero. -/
theorem usedOperands_paddedFrame {cmd : Word} {ws : List Word} (hlen : ws.length ≤ 5) (harity : arityOf cmd = ws.length) :
    (paddedFrame cmd ws).usedOperands = ws ∧ (paddedFrame cmd ws).unusedZero = true := by
  have hcmd : (paddedFrame cmd ws).cmd = cmd := rfl
  rw [Frame.usedOperands, Frame.unusedZero, hcmd, harity]
  match ws, hlen with
  | [], _ => exact ⟨rfl, rfl⟩
  | [_], _ => exact ⟨rfl, rfl⟩
  | [_, _], _ => exact ⟨rfl, rfl⟩
  | [_, _, _], _ => exact ⟨rfl, rfl⟩
  | [_, _, _, _], _ => exact ⟨rfl, rfl⟩
  | [_, _, _, _, _], _ => exact ⟨rfl, rfl⟩
  | _ :: _ :: _ :: _ :: _ :: _ :: _, hlen => simp only [List.length_cons] at hlen; omega

/-- A line with a mnemonic of R77 and as many operand words as its format uses gives the frame of those words. -/
theorem assemble_of_mem_commandTable {results ws : List Word} {l : AsmLine} {cmd : Word}
    (hmem : (l.mnemonic, cmd, ws.length) ∈ commandTable) (hws : l.operands.mapM (asmWord results) = some ws) :
    assemble results l = some (paddedFrame cmd ws) := by
  rw [commandTable_eq, List.mem_map] at hmem
  obtain ⟨row, hrow, heq⟩ := hmem
  obtain ⟨hname, rfl, hlen⟩ := by simpa using heq
  exact assemble_eq_some.2 ⟨row, ws, hname ▸ find_mnemonic_of_mem row hrow, hws, hlen.symm, rfl⟩

/-- Whatever line gives a frame has a mnemonic of R77, and the frame is that command's, with the line's words. -/
theorem mem_commandTable_of_assemble {results : List Word} {l : AsmLine} {f : Frame} (h : assemble results l = some f) :
    (l.mnemonic, f.cmd, l.operands.length) ∈ commandTable ∧ f.assembled = true ∧
      l.operands.mapM (asmWord results) = some f.usedOperands := by
  obtain ⟨row, ws, hfind, hws, hlen, rfl⟩ := assemble_eq_some.1 h
  have hrow := List.mem_of_find?_eq_some hfind
  have hname : row.mnemonic = l.mnemonic := by simpa using List.find?_some hfind
  obtain ⟨hlegal, harity⟩ := legalCmd_and_arityOf_of_mem row hrow
  obtain ⟨hused, hzero⟩ := usedOperands_paddedFrame (hlen ▸ arity_le_five row.format) (harity.trans hlen.symm)
  refine ⟨?_, Bool.and_eq_true_iff.2 ⟨hlegal, hzero⟩, hws.trans (congrArg some hused.symm)⟩
  rw [commandTable_eq, List.mem_map]
  exact ⟨row, hrow, by rw [hname, length_of_asmWords hws, hlen]⟩

/-- Settles O4: both directions go through the one row of the opcode map with the line's mnemonic. -/
theorem assemblerWritesAssembledFrames : Obligations.AssemblerWritesAssembledFrames := by
  refine ⟨?_, fun results l f => mem_commandTable_of_assemble, fun results w k => ⟨rfl, rfl, rfl, rfl, rfl⟩,
    fun results neg digits exp10 => rfl⟩
  rintro results ws l cmd n hmem hws rfl
  exact assemble_of_mem_commandTable hmem hws

end Sys2Proof.Proofs
end

section
/-! Negation and the polynomials (O36, O60). -/

namespace Sys2Proof.Proofs

open Sys2Proof.Machine Sys2Proof.Safety

/-- Settles O36: the mask of `fneg` has bit 31 alone. -/
theorem negationFlipsTheSignBit : Obligations.NegationFlipsTheSignBit := by
  intro w i hi
  have hmask : (0x80000000 : Word).getLsbD i = decide (i = 31) := by
    interval_cases i <;> rfl
  rw [fneg, BitVec.getLsbD_xor, hmask]
  split <;> simp_all

/-- Settles O60: the model's polynomials are written in Horner's arrangement. -/
theorem polynomialsAreHorner : Obligations.PolynomialsAreHorner :=
  ⟨fun _ _ => rfl, fun _ _ => rfl⟩

end Sys2Proof.Proofs
end

section
/-! The numbers words stand for, over the rationals (R11): every word's value as a signed multiple of 2^-149, and its class by
its exponent field (O30). -/

namespace Sys2Proof.Proofs

open Sys2Proof.Machine Sys2Proof.Safety

/-- The unit all finite values are multiples of (R11). -/
def leastUnit : ℚ := (2 : ℚ) ^ (-149 : ℤ)

/-- The sign of a number as a factor. -/
def signFactor (neg : Bool) : ℚ := if neg then -1 else 1

theorem leastUnit_pos : 0 < leastUnit := zpow_pos (by norm_num) _

theorem leastUnit_eq : leastUnit = 1 / 2 ^ 149 := by
  rw [leastUnit, zpow_neg, one_div]; norm_cast

theorem abs_signFactor (s : Bool) : |signFactor s| = 1 := by cases s <;> simp [signFactor]

theorem abs_signFactor_mul (s : Bool) {a : ℚ} (h : 0 ≤ a) : |signFactor s * a| = a := by
  rw [abs_mul, abs_signFactor, one_mul, abs_of_nonneg h]

theorem signFactor_xor (s t : Bool) : signFactor (s ^^ t) = signFactor s * signFactor t := by
  cases s <;> cases t <;> simp [signFactor]

theorem signFactor_inv (s : Bool) : (signFactor s)⁻¹ = signFactor s := by cases s <;> simp [signFactor]

theorem cast_signedUnits (s : Bool) (m : ℕ) : ((signedUnits s m : ℤ) : ℚ) = signFactor s * m := by
  cases s <;> simp [signedUnits, signFactor]

/-- The sign and the magnitude of an integer give it back. -/
theorem signFactor_mul_natAbs (x : ℤ) : signFactor (decide (x < 0)) * (x.natAbs : ℚ) = x := by
  rw [Nat.cast_natAbs, Int.cast_abs]
  rcases lt_or_ge x 0 with h | h
  · rw [abs_of_neg (by exact_mod_cast h)]; simp [signFactor, h]
  · rw [abs_of_nonneg (by exact_mod_cast h)]; simp [signFactor, not_lt.2 h]

/-- The table of R11 gives every word its sign and its magnitude in units of 2^-149. -/
theorem realVal_eq (w : Word) : realVal w = signFactor (signBit w) * magUnits w * leastUnit := by
  unfold realVal magUnits
  rw [mul_assoc]
  congr 1
  split
  next => rfl
  next h =>
    obtain ⟨e, he⟩ : ∃ e, expField w = e + 1 := ⟨expField w - 1, by omega⟩
    have hscale : (2 : ℚ) ^ ((e : ℤ) + 1 - 127) = 2 ^ 23 * 2 ^ e * leastUnit := by
      rw [leastUnit, show (e : ℤ) + 1 - 127 = 23 + e + -149 by ring, zpow_add₀ two_ne_zero, zpow_add₀ two_ne_zero]
      norm_cast
    have hone : (2 : ℚ) ^ (-23 : ℤ) * 2 ^ 23 = 1 := by norm_num
    rw [he, Nat.add_sub_cancel]
    push_cast
    rw [hscale]
    linear_combination (mantissa w : ℚ) * 2 ^ e * leastUnit * hone

theorem abs_realVal (w : Word) : |realVal w| = magUnits w * leastUnit := by
  rw [realVal_eq, mul_assoc, abs_signFactor_mul _ (mul_nonneg (Nat.cast_nonneg _) leastUnit_pos.le)]

theorem realVal_fneg (w : Word) : realVal (fneg w) = -realVal w := by
  rw [realVal_eq, realVal_eq, signBit_fneg, magUnits_fneg]
  cases signBit w <;> simp [signFactor]

theorem realVal_eq_zero_iff (w : Word) : realVal w = 0 ↔ magUnits w = 0 := by
  rw [← abs_eq_zero, abs_realVal, mul_eq_zero, or_iff_left leastUnit_pos.ne', Nat.cast_eq_zero]

theorem isFinite_iff {w : Word} : isFinite w = true ↔ expField w ≠ 255 := by simp [isFinite]

theorem isFinite_iff_val {w : Word} : isFinite w = true ↔ val w = .fin (signBit w) (magUnits w) := by
  simp [isFinite_iff, val_eq_fin_iff]

/-- The value of a word that stands for a finite number. -/
theorem realVal_of_val {w : Word} {s : Bool} {m : ℕ} (h : val w = .fin s m) :
    realVal w = (signedUnits s m : ℤ) * leastUnit := by
  obtain ⟨-, rfl, rfl⟩ := val_eq_fin_iff.1 h
  rw [realVal_eq, cast_signedUnits]

/-- Settles O30: the magnitude in units of 2^-149 is the one the table of R11 gives. -/
theorem valuesOfWords : Obligations.ValuesOfWords := by
  intro w
  refine ⟨fun he hm => ?_, fun he hm => ?_, fun he => ⟨magUnits w, val_of_not_exp255 he, realVal_eq w⟩⟩
  · exact val_eq_nan_iff.2 (by simp [isNaN, he, hm])
  · exact val_eq_inf_iff.2 ⟨by simp [isInf, he, hm], rfl⟩

end Sys2Proof.Proofs
end

section
/-! Rounding (R17): the model's rounding of a sign and a quotient of naturals is the correct rounding of that rational (O31, O32,
O33). -/

namespace Sys2Proof.Proofs

open Sys2Proof.Machine Sys2Proof.Safety

theorem roundMag_zero {d : ℕ} (hd : 0 < d) : roundMag 0 d = 0 := by
  simpa [patUnits] using roundMag_exact (p := 0) (by omega) hd

/-- Where rounding stays below infinity, no pattern is nearer to `n / d` than the rounded one, and one that is equally near
leaves the rounded one even. -/
theorem roundMag_nearest {n d : ℕ} (hd : 0 < d) (h : roundMag n d < 255 * 2 ^ 23) (q : ℕ) :
    |(patUnits (roundMag n d) * d : ℤ) - n| ≤ |(patUnits q * d : ℤ) - n| ∧
    (|(patUnits q * d : ℤ) - n| = |(patUnits (roundMag n d) * d : ℤ) - n| → q ≠ roundMag n d → roundMag n d % 2 = 0) := by
  obtain ⟨b, hle, hlt, hround⟩ := roundMag_bracket n hd
  have below : q < b → patUnits q * d < patUnits b * d := fun hq =>
    Nat.mul_lt_mul_of_pos_right (patUnits_strictMono hq) hd
  have above : b + 1 < q → patUnits (b + 1) * d < patUnits q * d := fun hq =>
    Nat.mul_lt_mul_of_pos_right (patUnits_strictMono hq) hd
  have hp : roundMag n d = if (patUnits b + patUnits (b + 1)) * d < 2 * n ∨
      ((patUnits b + patUnits (b + 1)) * d = 2 * n ∧ b % 2 = 1) then b + 1 else b := by
    rw [hround] at h ⊢
    exact min_eq_left ((min_lt_iff.1 h).resolve_right (lt_irrefl _)).le
  rw [Nat.add_mul] at hp
  simp only [abs_eq_max_neg]
  rcases (by omega : q < b ∨ q = b ∨ q = b + 1 ∨ b + 1 < q) with hq | rfl | rfl | hq
  · have := below hq
    split at hp <;> rw [hp] <;> omega
  · split at hp <;> rw [hp] <;> omega
  · split at hp <;> rw [hp] <;> omega
  · have := above hq
    split at hp <;> rw [hp] <;> omega

/-- Rounding overflows from the middle between the last finite pattern and the pattern of infinity on. -/
theorem roundMag_eq_inf_iff (n : ℕ) {d : ℕ} (hd : 0 < d) :
    roundMag n d = 255 * 2 ^ 23 ↔ (2 ^ 25 - 1) * 2 ^ 253 * d ≤ 2 * n := by
  obtain ⟨t, ht⟩ : ∃ t, t = 255 * 2 ^ 23 - 1 := ⟨_, rfl⟩
  have htop : patUnits t + patUnits (t + 1) = (2 ^ 25 - 1) * 2 ^ 253 := by rw [ht]; decide +kernel
  obtain ⟨b, hle, hlt, hround⟩ := roundMag_bracket n hd
  have mono {p q : ℕ} (h : p ≤ q) : patUnits p * d ≤ patUnits q * d :=
    Nat.mul_le_mul_right d (patUnits_strictMono.monotone h)
  rw [hround, show 255 * 2 ^ 23 = t + 1 by omega, ← htop, Nat.add_mul, Nat.add_mul]
  refine min_eq_right_iff.trans ?_
  rcases lt_trichotomy b t with hb | rfl | hb
  · have h1 := mono (show b + 1 ≤ t from hb)
    have h2 := mono (show b + 1 ≤ t + 1 by omega)
    split <;> omega
  · split <;> omega
  · have h1 := mono (show t ≤ b from hb.le)
    have h2 := mono (show t + 1 ≤ b from hb)
    split <;> omega

/-- In terms of the bound of R17: a magnitude at or beyond it is the one that rounds to infinity. -/
theorem overflowBound_le_iff (n : ℕ) {d : ℕ} (hd : 0 < d) :
    overflowBound ≤ n / d * leastUnit ↔ roundMag n d = 255 * 2 ^ 23 := by
  have hbound : overflowBound = (((2 ^ 25 - 1) * 2 ^ 253 : ℕ) : ℚ) / 2 * leastUnit := by
    rw [leastUnit_eq, overflowBound]; norm_num
  rw [roundMag_eq_inf_iff n hd, hbound, mul_le_mul_iff_left₀ leastUnit_pos,
    div_le_div_iff₀ two_pos (Nat.cast_pos.2 hd), mul_comm (n : ℚ) 2]
  norm_cast

/-- How far a multiple of the unit is from a quotient of naturals. -/
theorem abs_sub_div (u n : ℕ) {d : ℕ} (hd : 0 < d) :
    |(u : ℚ) * leastUnit - n / d * leastUnit| = |(u * d : ℤ) - n| * (leastUnit / d) := by
  have hd' : (0 : ℚ) < d := Nat.cast_pos.2 hd
  rw [show (u : ℚ) * leastUnit - n / d * leastUnit = (u * d - n) * (leastUnit / d) by field_simp, abs_mul,
    abs_of_pos (div_pos leastUnit_pos hd')]
  push_cast
  rfl

/-- Below the overflow bound, no finite word is nearer to `x`, of magnitude `n / d` units, than one with `x`'s sign and the
rounded magnitude; where another value is equally near, the rounded pattern is even. -/
theorem nearest_of_roundMag {n d : ℕ} (hd : 0 < d) (hfin : roundMag n d < 255 * 2 ^ 23) {x y : ℚ} {s : Bool}
    (hx : x = signFactor s * (n / d * leastUnit)) (hy : y = signFactor s * (patUnits (roundMag n d) * leastUnit)) (v : Word) :
    |y - x| ≤ |realVal v - x| ∧ (|realVal v - x| = |y - x| → realVal v ≠ y → roundMag n d % 2 = 0) := by
  obtain ⟨q, hq⟩ : ∃ q, magUnits v = patUnits q := ⟨_, magUnits_eq_patUnits v⟩
  obtain ⟨hnear, htie⟩ := roundMag_nearest hd hfin q
  have hpos : 0 < leastUnit / d := div_pos leastUnit_pos (Nat.cast_pos.2 hd)
  have hxabs : |x| = n / d * leastUnit := hx ▸ abs_signFactor_mul s (mul_nonneg (by positivity) leastUnit_pos.le)
  have hyx : |y - x| = |(patUnits (roundMag n d) * d : ℤ) - n| * (leastUnit / d) := by
    rw [hx, hy, ← mul_sub, abs_mul, abs_signFactor, one_mul, abs_sub_div _ _ hd]
  have hvx : |(patUnits q * d : ℤ) - n| * (leastUnit / d) ≤ |realVal v - x| := by
    rw [← abs_sub_div _ _ hd, ← hq, ← abs_realVal, ← hxabs]
    exact abs_abs_sub_abs_le _ _
  have hmono : |y - x| ≤ |(patUnits q * d : ℤ) - n| * (leastUnit / d) := by
    rw [hyx]
    exact mul_le_mul_of_nonneg_right (by exact_mod_cast hnear) hpos.le
  refine ⟨hmono.trans hvx, fun heq hne => ?_⟩
  by_cases hqp : q = roundMag n d
  · have hneg : realVal v = -y := by
      refine (abs_eq_abs.1 ?_).resolve_left hne
      rw [abs_realVal, hq, hqp, hy, abs_signFactor_mul s (mul_nonneg (Nat.cast_nonneg _) leastUnit_pos.le)]
    have hxy : x * y = 0 := by
      have := (sq_eq_sq_iff_abs_eq_abs _ _).2 heq
      rw [hneg] at this
      linarith
    rcases mul_eq_zero.1 hxy with h | h
    · have hn : n = 0 := by simpa [h, hd.ne', leastUnit_pos.ne'] using hxabs
      rw [hn, roundMag_zero hd]
    · exact absurd (by rw [hneg, h, neg_zero]) hne
  · have := mul_right_cancel₀ hpos.ne' (hyx ▸ le_antisymm (hvx.trans heq.le) hmono)
    exact htie (by exact_mod_cast this) hqp

theorem mantissa_roundTo_mod_two (s : Bool) (n d : ℕ) : mantissa (roundTo s n d) % 2 = roundMag n d % 2 := by
  have hle := roundMag_le n d
  rw [roundTo, mantissa_packWord s (by omega)]
  omega

/-- The word of a sign and a quotient of naturals, in units of 2^-149, is the correct rounding of that rational (R17). -/
theorem roundsTo_roundTo (s : Bool) (n : ℕ) {d : ℕ} (hd : 0 < d) :
    RoundsTo (signFactor s * (n / d * leastUnit)) (roundTo s n d) := by
  have hnonneg : 0 ≤ n / d * leastUnit := mul_nonneg (by positivity) leastUnit_pos.le
  unfold RoundsTo
  rw [abs_signFactor_mul s hnonneg]
  simp only [overflowBound_le_iff n hd]
  split
  next h =>
    have hpos : 0 < n / d * leastUnit := by
      refine lt_of_lt_of_le ?_ ((overflowBound_le_iff n hd).2 h)
      norm_num [overflowBound]
    rw [roundTo, h]
    cases s
    · rw [if_neg (by simpa [signFactor] using hnonneg)]; rfl
    · rw [if_pos (by simpa [signFactor] using hpos)]; rfl
  next h =>
    have hlt := (roundMag_le n d).lt_of_ne h
    have hval : val (roundTo s n d) = .fin s (patUnits (roundMag n d)) := by rw [val_roundTo, if_neg h]
    have hreal : realVal (roundTo s n d) = signFactor s * (patUnits (roundMag n d) * leastUnit) := by
      rw [realVal_of_val hval, cast_signedUnits, mul_assoc]
    refine ⟨isFinite_iff.2 (val_eq_fin_iff.1 hval).1, fun v _ => (nearest_of_roundMag hd hlt rfl hreal v).1,
      fun v _ heq hne => ?_⟩
    rw [mantissa_roundTo_mod_two]
    exact (nearest_of_roundMag hd hlt rfl hreal v).2 heq hne

/-- A finite word's value is the sign and magnitude it stands for. -/
theorem val_of_isFinite {w : Word} (h : isFinite w = true) : val w = .fin (signBit w) (magUnits w) :=
  isFinite_iff_val.1 h

theorem isFinite_fneg (w : Word) : isFinite (fneg w) = isFinite w := by simp [isFinite]

/-- A signed zero is the rounding of zero. -/
theorem roundsTo_zeroOf (s : Bool) : RoundsTo 0 (zeroOf s) := by
  have h := roundsTo_roundTo s 0 one_pos
  have hword : roundTo s 0 1 = zeroOf s := by cases s <;> decide
  simpa [hword] using h

theorem roundsTo_fadd {a b : Word} (ha : isFinite a = true) (hb : isFinite b = true) :
    RoundsTo (realVal a + realVal b) (fadd a b) := by
  have hva := val_of_isFinite ha
  have hvb := val_of_isFinite hb
  obtain ⟨x, hx⟩ : ∃ x, x = signedUnits (signBit a) (magUnits a) + signedUnits (signBit b) (magUnits b) := ⟨_, rfl⟩
  have hsum : realVal a + realVal b = x * leastUnit := by
    rw [realVal_of_val hva, realVal_of_val hvb, hx]; push_cast; ring
  rw [fadd_fin hva hvb, ← hx, hsum]
  split
  next h => simpa [h] using roundsTo_zeroOf _
  next h =>
    have hround := roundsTo_roundTo (decide (x < 0)) x.natAbs one_pos
    rwa [Nat.cast_one, div_one, ← mul_assoc, signFactor_mul_natAbs] at hround

/-- Settles O31: a difference is the sum with the negated word. -/
theorem sumIsCorrectlyRounded : Obligations.SumIsCorrectlyRounded := by
  intro a b ha hb
  refine ⟨roundsTo_fadd ha hb, ?_⟩
  rw [sub_eq_add_neg, ← realVal_fneg]
  exact roundsTo_fadd ha ((isFinite_fneg b).trans hb)

/-- Settles O32: signs and magnitudes multiply, in units of 2^-298. -/
theorem productIsCorrectlyRounded : Obligations.ProductIsCorrectlyRounded := by
  intro a b ha hb
  rw [fmul_fin (val_of_isFinite ha) (val_of_isFinite hb)]
  convert roundsTo_roundTo (signBit a ^^ signBit b) (magUnits a * magUnits b) (Nat.two_pow_pos 149) using 1
  rw [realVal_eq, realVal_eq, signFactor_xor, leastUnit_eq]
  push_cast
  ring

/-- Settles O33: signs and magnitudes divide, and the units cancel. -/
theorem quotientIsCorrectlyRounded : Obligations.QuotientIsCorrectlyRounded := by
  intro a b ha hb hne
  have hmag : magUnits b ≠ 0 := mt (realVal_eq_zero_iff b).2 hne
  rw [fdiv_fin (val_of_isFinite ha) (val_of_isFinite hb) hmag]
  convert roundsTo_roundTo (signBit a ^^ signBit b) (magUnits a * 2 ^ 149) (Nat.pos_of_ne_zero hmag) using 1
  rw [realVal_eq, realVal_eq, signFactor_xor, leastUnit_eq, div_eq_mul_inv, mul_inv, mul_inv, signFactor_inv]
  push_cast
  field_simp
  ring

end Sys2Proof.Proofs
end

section
/-! The four primitives on zeros, infinities and NaN, over the classes of R11 (R18, R19; O34, O35). -/

namespace Sys2Proof.Proofs

open Sys2Proof.Machine Sys2Proof.Safety

section Classes

variable {w : Word} {s : Bool} {m : ℕ}

theorem classes_of_val_nan (h : val w = .nan) : isNaN w = true ∧ isInf w = false ∧ isFinite w = false := by
  have hnan := val_eq_nan_iff.1 h
  obtain ⟨he, hm⟩ : expField w = 255 ∧ mantissa w ≠ 0 := by simpa [isNaN] using hnan
  simp [hnan, isInf, isFinite, he, hm]

theorem classes_of_val_inf (h : val w = .inf s) :
    isNaN w = false ∧ isInf w = true ∧ isFinite w = false ∧ signBit w = s := by
  obtain ⟨hinf, hs⟩ := val_eq_inf_iff.1 h
  obtain ⟨he, hm⟩ : expField w = 255 ∧ mantissa w = 0 := by simpa [isInf] using hinf
  simp [hinf, hs, isNaN, isFinite, he, hm]

theorem classes_of_val_fin (h : val w = .fin s m) :
    isNaN w = false ∧ isInf w = false ∧ isFinite w = true ∧ signBit w = s ∧ (realVal w = 0 ↔ m = 0) := by
  obtain ⟨he, rfl, rfl⟩ := val_eq_fin_iff.1 h
  simp [isNaN, isInf, isFinite, he, realVal_eq_zero_iff]

/-- There is one infinity of a sign. -/
theorem eq_infOf_of_val (h : val w = .inf s) : w = infOf s := by
  obtain ⟨hinf, rfl⟩ := val_eq_inf_iff.1 h
  obtain ⟨he, hm⟩ : expField w = 255 ∧ mantissa w = 0 := by simpa [isInf] using hinf
  have hfields := packWord_fields w
  rw [he, hm] at hfields
  rw [← hfields, signBit_packWord _ (by omega)]
  cases signBit w <;> rfl

/-- There is one zero of a sign. -/
theorem eq_zeroOf_of_val (h : val w = .fin s 0) : w = zeroOf s := by
  obtain ⟨-, rfl, hmag⟩ := val_eq_fin_iff.1 h
  have hfields := packWord_fields w
  rw [magUnits_eq_patUnits] at hmag
  have hpat : expField w * 2 ^ 23 + mantissa w = 0 :=
    patUnits_strictMono.injective (hmag.trans (show 0 = patUnits 0 by simp [patUnits]))
  rw [hpat] at hfields
  rw [← hfields, signBit_packWord _ (by omega)]
  cases signBit w <;> rfl

end Classes

theorem val_infOf (s : Bool) : val (infOf s) = .inf s := by cases s <;> decide

theorem val_zeroOf (s : Bool) : val (zeroOf s) = .fin s 0 := by cases s <;> decide

@[simp] theorem signBit_infOf (s : Bool) : signBit (infOf s) = s := by cases s <;> decide

@[simp] theorem signBit_zeroOf (s : Bool) : signBit (zeroOf s) = s := by cases s <;> decide

@[simp] theorem signBit_roundTo (s : Bool) (n d : ℕ) : signBit (roundTo s n d) = s :=
  signBit_packWord s ((roundMag_le n d).trans_lt (by omega))

@[simp] theorem isNaN_qnan : isNaN qnan = true := by decide

@[simp] theorem isNaN_infOf (s : Bool) : isNaN (infOf s) = false := by cases s <;> decide

@[simp] theorem isInf_infOf (s : Bool) : isInf (infOf s) = true := by cases s <;> decide

@[simp] theorem isNaN_zeroOf (s : Bool) : isNaN (zeroOf s) = false := by cases s <;> decide

@[simp] theorem isNaN_roundTo (s : Bool) (n d : ℕ) : isNaN (roundTo s n d) = false := by
  by_cases h : roundMag n d = 255 * 2 ^ 23
  · exact (classes_of_val_inf ((val_roundTo s n d).trans (if_pos h))).1
  · exact (classes_of_val_fin ((val_roundTo s n d).trans (if_neg h))).1

/-- A rounded zero is the zero of its sign. -/
theorem roundTo_zero (s : Bool) {d : ℕ} (hd : 0 < d) : roundTo s 0 d = zeroOf s := by
  rw [roundTo, roundMag_zero hd]; cases s <;> rfl

@[simp] theorem isNaN_fneg (w : Word) : isNaN (fneg w) = isNaN w := by simp [isNaN]

@[simp] theorem isInf_fneg (w : Word) : isInf (fneg w) = isInf w := by simp [isInf]

section Infinities

variable {a b : Word} {s t : Bool} {m n : ℕ}

theorem fadd_inf_inf (ha : val a = .inf s) (hb : val b = .inf t) : fadd a b = if s = t then infOf s else qnan := by
  simp [fadd, ha, hb]

theorem fadd_inf_fin (ha : val a = .inf s) (hb : val b = .fin t n) : fadd a b = infOf s := by simp [fadd, ha, hb]

theorem fadd_fin_inf (ha : val a = .fin s m) (hb : val b = .inf t) : fadd a b = infOf t := by simp [fadd, ha, hb]

theorem fmul_inf_inf (ha : val a = .inf s) (hb : val b = .inf t) : fmul a b = infOf (s ^^ t) := by simp [fmul, ha, hb]

theorem fmul_inf_fin (ha : val a = .inf s) (hb : val b = .fin t n) :
    fmul a b = if n = 0 then qnan else infOf (s ^^ t) := by simp [fmul, ha, hb]

theorem fmul_fin_inf (ha : val a = .fin s m) (hb : val b = .inf t) :
    fmul a b = if m = 0 then qnan else infOf (s ^^ t) := by simp [fmul, ha, hb]

theorem fdiv_inf_inf (ha : val a = .inf s) (hb : val b = .inf t) : fdiv a b = qnan := by simp [fdiv, ha, hb]

theorem fdiv_inf_fin (ha : val a = .inf s) (hb : val b = .fin t n) : fdiv a b = infOf (s ^^ t) := by simp [fdiv, ha, hb]

theorem fdiv_fin_inf (ha : val a = .fin s m) (hb : val b = .inf t) : fdiv a b = zeroOf (s ^^ t) := by simp [fdiv, ha, hb]

theorem fdiv_fin_zero (ha : val a = .fin s m) (hb : val b = .fin t 0) :
    fdiv a b = if m = 0 then qnan else infOf (s ^^ t) := by simp [fdiv, ha, hb]

end Infinities

theorem fadd_comm (a b : Word) : fadd a b = fadd b a := by
  cases ha : val a with
  | nan => rw [fadd_nan_left ha, fadd_nan_right ha]
  | inf s =>
    cases hb : val b with
    | nan => rw [fadd_nan_left hb, fadd_nan_right hb]
    | inf t => rw [fadd_inf_inf ha hb, fadd_inf_inf hb ha]; cases s <;> cases t <;> rfl
    | fin t n => rw [fadd_inf_fin ha hb, fadd_fin_inf hb ha]
  | fin s m =>
    cases hb : val b with
    | nan => rw [fadd_nan_left hb, fadd_nan_right hb]
    | inf t => rw [fadd_fin_inf ha hb, fadd_inf_fin hb ha]
    | fin t n => rw [fadd_fin ha hb, fadd_fin hb ha, add_comm, Bool.and_comm]

theorem fmul_comm (a b : Word) : fmul a b = fmul b a := by
  cases ha : val a with
  | nan => rw [fmul_nan_left ha, fmul_nan_right ha]
  | inf s =>
    cases hb : val b with
    | nan => rw [fmul_nan_left hb, fmul_nan_right hb]
    | inf t => rw [fmul_inf_inf ha hb, fmul_inf_inf hb ha, Bool.xor_comm]
    | fin t n => rw [fmul_inf_fin ha hb, fmul_fin_inf hb ha, Bool.xor_comm]
  | fin s m =>
    cases hb : val b with
    | nan => rw [fmul_nan_left hb, fmul_nan_right hb]
    | inf t => rw [fmul_fin_inf ha hb, fmul_inf_fin hb ha, Bool.xor_comm]
    | fin t n => rw [fmul_fin ha hb, fmul_fin hb ha, Bool.xor_comm, Nat.mul_comm]

/-- The result `r` is `QNAN` where the operation is invalid and no NaN elsewhere (R19). -/
def QnanExactlyWhere (invalid : Prop) (r : Word) : Prop := (invalid ∧ r = qnan) ∨ (¬invalid ∧ isNaN r = false)

theorem QnanExactlyWhere.eq_qnan_iff {P : Prop} {r : Word} (h : QnanExactlyWhere P r) : r = 0x7FC00000 ↔ P := by
  obtain ⟨hP, hr⟩ | ⟨hP, hr⟩ := h
  · exact iff_of_true hr hP
  · refine iff_of_false ?_ hP
    rintro rfl
    exact absurd hr (by decide)

theorem QnanExactlyWhere.eq_qnan_of_isNaN {P : Prop} {r : Word} (h : QnanExactlyWhere P r) (hr : isNaN r = true) :
    r = 0x7FC00000 := by
  obtain ⟨-, h⟩ | ⟨-, h⟩ := h
  · exact h
  · simp [h] at hr

theorem fadd_qnanExactlyWhere (a b : Word) :
    QnanExactlyWhere (isNaN a = true ∨ isNaN b = true ∨ (isInf a = true ∧ isInf b = true ∧ signBit a ≠ signBit b))
      (fadd a b) := by
  cases ha : val a with
  | nan => exact .inl ⟨.inl (val_eq_nan_iff.1 ha), fadd_nan_left ha⟩
  | inf s =>
    obtain ⟨hna, hia, -, hsa⟩ := classes_of_val_inf ha
    cases hb : val b with
    | nan => exact .inl ⟨.inr (.inl (val_eq_nan_iff.1 hb)), fadd_nan_right hb⟩
    | inf t =>
      obtain ⟨hnb, hib, -, hsb⟩ := classes_of_val_inf hb
      rw [fadd_inf_inf ha hb]
      by_cases hst : s = t <;> simp [QnanExactlyWhere, hna, hia, hsa, hnb, hib, hsb, hst]
    | fin t n =>
      obtain ⟨hnb, hib, -⟩ := classes_of_val_fin hb
      simp [QnanExactlyWhere, fadd_inf_fin ha hb, hna, hnb, hib]
  | fin s m =>
    obtain ⟨hna, hia, -⟩ := classes_of_val_fin ha
    cases hb : val b with
    | nan => exact .inl ⟨.inr (.inl (val_eq_nan_iff.1 hb)), fadd_nan_right hb⟩
    | inf t =>
      obtain ⟨hnb, -⟩ := classes_of_val_inf hb
      simp [QnanExactlyWhere, fadd_fin_inf ha hb, hna, hnb, hia]
    | fin t n =>
      obtain ⟨hnb, -⟩ := classes_of_val_fin hb
      rw [fadd_fin ha hb]
      split <;> simp [QnanExactlyWhere, hna, hnb, hia]

theorem fsub_qnanExactlyWhere (a b : Word) :
    QnanExactlyWhere (isNaN a = true ∨ isNaN b = true ∨ (isInf a = true ∧ isInf b = true ∧ signBit a = signBit b))
      (fsub a b) := by
  simpa [fsub] using fadd_qnanExactlyWhere a (fneg b)

theorem fmul_qnanExactlyWhere (a b : Word) :
    QnanExactlyWhere (isNaN a = true ∨ isNaN b = true ∨ (isInf a = true ∧ isFinite b = true ∧ realVal b = 0) ∨
      (isFinite a = true ∧ realVal a = 0 ∧ isInf b = true)) (fmul a b) := by
  cases ha : val a with
  | nan => exact .inl ⟨.inl (val_eq_nan_iff.1 ha), fmul_nan_left ha⟩
  | inf s =>
    obtain ⟨hna, hia, hfa, -⟩ := classes_of_val_inf ha
    cases hb : val b with
    | nan => exact .inl ⟨.inr (.inl (val_eq_nan_iff.1 hb)), fmul_nan_right hb⟩
    | inf t =>
      obtain ⟨hnb, -, hfb, -⟩ := classes_of_val_inf hb
      simp [QnanExactlyWhere, fmul_inf_inf ha hb, hna, hnb, hfa, hfb]
    | fin t n =>
      obtain ⟨hnb, -, hfb, -, hzb⟩ := classes_of_val_fin hb
      rw [fmul_inf_fin ha hb]
      by_cases hn : n = 0 <;> simp [QnanExactlyWhere, hna, hnb, hia, hfa, hfb, hzb, hn]
  | fin s m =>
    obtain ⟨hna, hia, hfa, -, hza⟩ := classes_of_val_fin ha
    cases hb : val b with
    | nan => exact .inl ⟨.inr (.inl (val_eq_nan_iff.1 hb)), fmul_nan_right hb⟩
    | inf t =>
      obtain ⟨hnb, hib, -⟩ := classes_of_val_inf hb
      rw [fmul_fin_inf ha hb]
      by_cases hm : m = 0 <;> simp [QnanExactlyWhere, hna, hnb, hia, hfa, hza, hib, hm]
    | fin t n =>
      obtain ⟨hnb, hib, -⟩ := classes_of_val_fin hb
      simp [QnanExactlyWhere, fmul_fin ha hb, hna, hnb, hia, hib]

theorem fdiv_qnanExactlyWhere (a b : Word) :
    QnanExactlyWhere (isNaN a = true ∨ isNaN b = true ∨ (isInf a = true ∧ isInf b = true) ∨
      (isFinite a = true ∧ isFinite b = true ∧ realVal a = 0 ∧ realVal b = 0)) (fdiv a b) := by
  cases ha : val a with
  | nan => exact .inl ⟨.inl (val_eq_nan_iff.1 ha), fdiv_nan_left ha⟩
  | inf s =>
    obtain ⟨hna, hia, hfa, -⟩ := classes_of_val_inf ha
    cases hb : val b with
    | nan => exact .inl ⟨.inr (.inl (val_eq_nan_iff.1 hb)), fdiv_nan_right hb⟩
    | inf t =>
      obtain ⟨-, hib, -⟩ := classes_of_val_inf hb
      exact .inl ⟨.inr (.inr (.inl ⟨hia, hib⟩)), fdiv_inf_inf ha hb⟩
    | fin t n =>
      obtain ⟨hnb, hib, -⟩ := classes_of_val_fin hb
      simp [QnanExactlyWhere, fdiv_inf_fin ha hb, hna, hnb, hfa, hib]
  | fin s m =>
    obtain ⟨hna, hia, hfa, -, hza⟩ := classes_of_val_fin ha
    cases hb : val b with
    | nan => exact .inl ⟨.inr (.inl (val_eq_nan_iff.1 hb)), fdiv_nan_right hb⟩
    | inf t =>
      obtain ⟨hnb, -, hfb, -⟩ := classes_of_val_inf hb
      simp [QnanExactlyWhere, fdiv_fin_inf ha hb, hna, hnb, hia, hfb]
    | fin t n =>
      obtain ⟨hnb, -, hfb, -, hzb⟩ := classes_of_val_fin hb
      rcases eq_or_ne n 0 with rfl | hn
      · rw [fdiv_fin_zero ha hb]
        by_cases hm : m = 0 <;> simp [QnanExactlyWhere, hna, hnb, hia, hfa, hza, hfb, hzb, hm]
      · simp [QnanExactlyWhere, fdiv_fin ha hb hn, hna, hnb, hia, hzb, hn]

/-- Settles O35: each primitive gives `QNAN` exactly on its invalid operands and no NaN elsewhere. -/
theorem primitivesGiveOneNaN : Obligations.PrimitivesGiveOneNaN := by
  intro a b
  refine ⟨(fadd_qnanExactlyWhere a b).eq_qnan_iff, (fsub_qnanExactlyWhere a b).eq_qnan_iff,
    (fmul_qnanExactlyWhere a b).eq_qnan_iff, (fdiv_qnanExactlyWhere a b).eq_qnan_iff, ?_⟩
  rintro r (rfl | rfl | rfl | rfl)
  · exact (fadd_qnanExactlyWhere a b).eq_qnan_of_isNaN
  · exact (fsub_qnanExactlyWhere a b).eq_qnan_of_isNaN
  · exact (fmul_qnanExactlyWhere a b).eq_qnan_of_isNaN
  · exact (fdiv_qnanExactlyWhere a b).eq_qnan_of_isNaN

/-- R18: the sign of a product that is not NaN. -/
theorem signBit_fmul {a b : Word} (h : isNaN (fmul a b) = false) : signBit (fmul a b) = (signBit a ^^ signBit b) := by
  cases ha : val a with
  | nan => simp [fmul_nan_left ha] at h
  | inf s =>
    obtain ⟨-, -, -, rfl⟩ := classes_of_val_inf ha
    cases hb : val b with
    | nan => simp [fmul_nan_right hb] at h
    | inf t => obtain ⟨-, -, -, rfl⟩ := classes_of_val_inf hb; simp [fmul_inf_inf ha hb]
    | fin t n =>
      obtain ⟨-, -, -, rfl, -⟩ := classes_of_val_fin hb
      rw [fmul_inf_fin ha hb] at h ⊢
      split at h <;> simp_all
  | fin s m =>
    obtain ⟨-, -, -, rfl, -⟩ := classes_of_val_fin ha
    cases hb : val b with
    | nan => simp [fmul_nan_right hb] at h
    | inf t =>
      obtain ⟨-, -, -, rfl⟩ := classes_of_val_inf hb
      rw [fmul_fin_inf ha hb] at h ⊢
      split at h <;> simp_all
    | fin t n => obtain ⟨-, -, -, rfl, -⟩ := classes_of_val_fin hb; simp [fmul_fin ha hb]

/-- R18: the sign of a quotient that is not NaN. -/
theorem signBit_fdiv {a b : Word} (h : isNaN (fdiv a b) = false) : signBit (fdiv a b) = (signBit a ^^ signBit b) := by
  cases ha : val a with
  | nan => simp [fdiv_nan_left ha] at h
  | inf s =>
    obtain ⟨-, -, -, rfl⟩ := classes_of_val_inf ha
    cases hb : val b with
    | nan => simp [fdiv_nan_right hb] at h
    | inf t => simp [fdiv_inf_inf ha hb] at h
    | fin t n => obtain ⟨-, -, -, rfl, -⟩ := classes_of_val_fin hb; simp [fdiv_inf_fin ha hb]
  | fin s m =>
    obtain ⟨-, -, -, rfl, -⟩ := classes_of_val_fin ha
    cases hb : val b with
    | nan => simp [fdiv_nan_right hb] at h
    | inf t => obtain ⟨-, -, -, rfl⟩ := classes_of_val_inf hb; simp [fdiv_fin_inf ha hb]
    | fin t n =>
      obtain ⟨-, -, -, rfl, -⟩ := classes_of_val_fin hb
      rcases eq_or_ne n 0 with rfl | hn
      · rw [fdiv_fin_zero ha hb] at h ⊢
        split at h <;> simp_all
      · simp [fdiv_fin ha hb hn]

/-- A word that is an infinity stands for the infinity of its sign. -/
theorem val_of_isInf {w : Word} (h : isInf w = true) : val w = .inf (signBit w) := val_eq_inf_iff.2 ⟨h, rfl⟩

theorem fadd_finite_inf {a b : Word} (ha : isFinite a = true) (hb : isInf b = true) : fadd a b = b :=
  (fadd_fin_inf (val_of_isFinite ha) (val_of_isInf hb)).trans (eq_infOf_of_val (val_of_isInf hb)).symm

theorem fadd_self_of_isInf {a : Word} (ha : isInf a = true) : fadd a a = a := by
  rw [fadd_inf_inf (val_of_isInf ha) (val_of_isInf ha), if_pos rfl]
  exact (eq_infOf_of_val (val_of_isInf ha)).symm

/-- R18: a sum that is zero is `-0` only where both operands are. -/
theorem fadd_of_zero_sum {a b : Word} (ha : isFinite a = true) (hb : isFinite b = true)
    (h : realVal a + realVal b = 0) :
    fadd a b = if a = 0x80000000 ∧ b = 0x80000000 then 0x80000000 else 0x00000000 := by
  have hva := val_of_isFinite ha
  have hvb := val_of_isFinite hb
  have hsum : signedUnits (signBit a) (magUnits a) + signedUnits (signBit b) (magUnits b) = 0 := by
    rw [realVal_of_val hva, realVal_of_val hvb, ← add_mul, mul_eq_zero, or_iff_left leastUnit_pos.ne'] at h
    exact_mod_cast h
  have hcond : (signBit a && signBit b) = true ↔ a = 0x80000000 ∧ b = 0x80000000 := by
    constructor
    · intro hs
      obtain ⟨hsa, hsb⟩ := Bool.and_eq_true_iff.1 hs
      rw [hsa, hsb] at hsum
      simp only [signedUnits, if_true] at hsum
      rw [hsa, show magUnits a = 0 by omega] at hva
      rw [hsb, show magUnits b = 0 by omega] at hvb
      exact ⟨eq_zeroOf_of_val hva, eq_zeroOf_of_val hvb⟩
    · rintro ⟨rfl, rfl⟩
      decide
  rw [fadd_fin hva hvb, if_pos hsum, zeroOf]
  exact if_congr hcond rfl rfl

/-- R18: an infinity times anything but zero is an infinity. -/
theorem isInf_fmul {a b : Word} (ha : isInf a = true) (hnb : isNaN b = false) (hb : isInf b = true ∨ realVal b ≠ 0) :
    isInf (fmul a b) = true := by
  cases hvb : val b with
  | nan => simp [val_eq_nan_iff.1 hvb] at hnb
  | inf t => rw [fmul_inf_inf (val_of_isInf ha) hvb, isInf_infOf]
  | fin t n =>
    obtain ⟨-, hib, -, -, hzb⟩ := classes_of_val_fin hvb
    have hn : n ≠ 0 := mt hzb.2 (hb.resolve_left (by simp [hib]))
    rw [fmul_inf_fin (val_of_isInf ha) hvb, if_neg hn, isInf_infOf]

/-- A word that is a signed zero is finite and of value zero. -/
theorem zero_of_eq_zeroOf {w : Word} {s : Bool} (h : w = zeroOf s) : isFinite w = true ∧ realVal w = 0 := by
  obtain ⟨-, -, hf, -, hz⟩ := classes_of_val_fin (h ▸ val_zeroOf s)
  exact ⟨hf, hz.2 rfl⟩

/-- R18: a non-zero number over zero is an infinity. -/
theorem isInf_fdiv_zero {a b : Word} (ha : isFinite a = true) (hb : isFinite b = true) (hza : realVal a ≠ 0)
    (hzb : realVal b = 0) : isInf (fdiv a b) = true := by
  have hvb := val_of_isFinite hb
  rw [(realVal_eq_zero_iff b).1 hzb] at hvb
  rw [fdiv_fin_zero (val_of_isFinite ha) hvb, if_neg (mt (realVal_eq_zero_iff a).2 hza), isInf_infOf]

/-- R18: zero over a non-zero number is the zero of the quotient's sign. -/
theorem fdiv_of_zero {a b : Word} (ha : isFinite a = true) (hb : isFinite b = true) (hza : realVal a = 0)
    (hzb : realVal b ≠ 0) : fdiv a b = zeroOf (signBit a ^^ signBit b) := by
  have hmb := mt (realVal_eq_zero_iff b).2 hzb
  rw [fdiv_fin (val_of_isFinite ha) (val_of_isFinite hb) hmb, (realVal_eq_zero_iff a).1 hza, Nat.zero_mul,
    roundTo_zero _ (Nat.pos_of_ne_zero hmb)]

/-- Settles O34, clause by clause over the classes of the operands. -/
theorem specialOperandsOfPrimitives : Obligations.SpecialOperandsOfPrimitives := by
  intro a b hna hnb
  refine ⟨fun ha hb => ⟨fadd_finite_inf ha hb, (fadd_comm b a).trans (fadd_finite_inf ha hb)⟩, fadd_self_of_isInf,
    fadd_of_zero_sum, rfl, signBit_fmul, fun ha hb => ?_, signBit_fdiv, isInf_fdiv_zero, fun ha hb => ?_,
    fun ha hb => ?_, fun ha hb hza hzb => zero_of_eq_zeroOf (fdiv_of_zero ha hb hza hzb)⟩
  · exact ⟨isInf_fmul ha hnb hb, (congrArg isInf (fmul_comm b a)).trans (isInf_fmul ha hnb hb)⟩
  · rw [fdiv_inf_fin (val_of_isInf ha) (val_of_isFinite hb), isInf_infOf]
  · exact zero_of_eq_zeroOf (fdiv_fin_inf (val_of_isFinite ha) (val_of_isInf hb))

end Sys2Proof.Proofs
end

section
/-! The comparisons over the extended rationals (R21; O37). -/

namespace Sys2Proof.Proofs

open Sys2Proof.Machine Sys2Proof.Safety

theorem extVal_of_val_inf {w : Word} {s : Bool} (h : val w = .inf s) :
    extVal w = if s then ⊥ else ((⊤ : WithTop ℚ) : WithBot (WithTop ℚ)) := by
  obtain ⟨-, hi, -, hs⟩ := classes_of_val_inf h
  simp [extVal, hi, hs]

theorem extVal_of_val_fin {w : Word} {s : Bool} {m : ℕ} (h : val w = .fin s m) :
    extVal w = (((signedUnits s m : ℤ) * leastUnit : ℚ) : WithTop ℚ) := by
  obtain ⟨-, hi, -⟩ := classes_of_val_fin h
  simp [extVal, hi, realVal_of_val h]

/-- R21 for words that are not NaN: the three comparisons are those of the extended values. -/
theorem comparisons_of_not_nan {a b : Word} (hna : isNaN a = false) (hnb : isNaN b = false) :
    (flt a b = true ↔ extVal a < extVal b) ∧ (fle a b = true ↔ extVal a ≤ extVal b) ∧
      (feq a b = true ↔ extVal a = extVal b) := by
  cases ha : val a with
  | nan => simp [val_eq_nan_iff.1 ha] at hna
  | inf s =>
    cases hb : val b with
    | nan => simp [val_eq_nan_iff.1 hb] at hnb
    | inf t =>
      rw [extVal_of_val_inf ha, extVal_of_val_inf hb]
      cases s <;> cases t <;> simp [flt, fle, feq, ha, hb, lt_top_iff_ne_top]
    | fin t n =>
      rw [extVal_of_val_inf ha, extVal_of_val_fin hb]
      generalize ((signedUnits t n : ℤ) : ℚ) * leastUnit = x
      cases s <;> simp [flt, fle, feq, ha, hb]
  | fin s m =>
    cases hb : val b with
    | nan => simp [val_eq_nan_iff.1 hb] at hnb
    | inf t =>
      rw [extVal_of_val_fin ha, extVal_of_val_inf hb]
      generalize ((signedUnits s m : ℤ) : ℚ) * leastUnit = x
      cases t <;> simp [flt, fle, feq, ha, hb, lt_top_iff_ne_top]
    | fin t n =>
      rw [extVal_of_val_fin ha, extVal_of_val_fin hb, flt_fin ha hb, fle_fin ha hb, feq_fin ha hb]
      simp only [WithBot.coe_lt_coe, WithTop.coe_lt_coe, WithBot.coe_le_coe, WithTop.coe_le_coe, WithBot.coe_inj,
        WithTop.coe_inj, mul_lt_mul_iff_left₀ leastUnit_pos, mul_le_mul_iff_left₀ leastUnit_pos,
        mul_left_inj' leastUnit_pos.ne', Int.cast_lt, Int.cast_le, Int.cast_inj, decide_eq_true_eq, and_self]

/-- R21 for NaN: where an operand is one, the three comparisons are false. -/
theorem comparisons_of_nan {a b : Word} (h : ¬(isNaN a = false ∧ isNaN b = false)) :
    flt a b = false ∧ fle a b = false ∧ feq a b = false := by
  rcases not_and_or.1 h with h | h
  · have ha := val_eq_nan_iff.2 (Bool.not_eq_false _ ▸ h)
    exact ⟨flt_nan_left ha, fle_nan_left ha, feq_nan_left ha⟩
  · have hb := val_eq_nan_iff.2 (Bool.not_eq_false _ ▸ h)
    exact ⟨flt_nan_right hb, fle_nan_right hb, feq_nan_right hb⟩

/-- Settles O37: a NaN operand makes both sides false, and otherwise the extended values are compared. -/
theorem comparisonsCompareValues : Obligations.ComparisonsCompareValues := by
  intro a b
  simp only [← and_assoc (a := isNaN a = false)]
  by_cases h : isNaN a = false ∧ isNaN b = false
  · simpa only [h.1, h.2, true_and] using comparisons_of_not_nan h.1 h.2
  · obtain ⟨hlt, hle, heq⟩ := comparisons_of_nan h
    simp [h, hlt, hle, heq]

end Sys2Proof.Proofs
end

section
/-! The conversions (R15, R16; O38). -/

namespace Sys2Proof.Proofs

open Sys2Proof.Machine Sys2Proof.Safety

/-- Below the guard a magnitude is below 2^23. -/
theorem magUnits_div_lt {v : Word} (h : expField v < 150) : magUnits v / 2 ^ 149 < 2 ^ 23 := by
  have htop : patUnits (150 * 2 ^ 23) = 2 ^ 23 * 2 ^ 149 := by decide +kernel
  have hm := mantissa_lt v
  rw [Nat.div_lt_iff_lt_mul (Nat.two_pow_pos 149), magUnits_eq_patUnits, ← htop]
  exact patUnits_strictMono (by omega)

/-- Rounding a signed magnitude toward zero: the quotient of naturals with the sign. -/
theorem trunc_signed (s : Bool) (m : ℕ) :
    (if signFactor s * (m * leastUnit) < 0 then ⌈signFactor s * (m * leastUnit)⌉ else ⌊signFactor s * (m * leastUnit)⌋) =
      signedUnits s (m / 2 ^ 149) := by
  have hfloor : ⌊(m : ℚ) * leastUnit⌋ = ((m / 2 ^ 149 : ℕ) : ℤ) := by
    rw [leastUnit_eq, mul_one_div]
    exact_mod_cast Rat.floor_natCast_div_natCast m (2 ^ 149)
  have hnonneg : 0 ≤ (m : ℚ) * leastUnit := mul_nonneg (Nat.cast_nonneg _) leastUnit_pos.le
  cases s with
  | false => simp [signFactor, signedUnits, hnonneg.not_gt, hfloor]
  | true =>
    have hceil : ⌈-((m : ℚ) * leastUnit)⌉ = -((m / 2 ^ 149 : ℕ) : ℤ) := by rw [Int.ceil_neg, hfloor]
    rcases hnonneg.eq_or_lt with h0 | hpos
    · have hzero : ((m / 2 ^ 149 : ℕ) : ℤ) = 0 := by rw [← hfloor, ← h0, Int.floor_zero]
      simp only [signedUnits, ← h0, hzero, mul_zero, lt_irrefl, if_true, if_false, Int.floor_zero, neg_zero]
    · simp [signFactor, signedUnits, hpos, hceil]

/-- A natural number below 2^23, in units of 2^-149, is the number of some finite pattern. -/
theorem exists_patUnits_eq_mul {k : ℕ} (hk : k < 2 ^ 23) : ∃ p < 255 * 2 ^ 23, patUnits p = k * 2 ^ 149 := by
  rcases Nat.eq_zero_or_pos k with rfl | hpos
  · exact ⟨0, by omega, by simp [patUnits]⟩
  · have hlog : Nat.log2 k < 23 := (Nat.log2_lt hpos.ne').2 hk
    obtain ⟨e, he⟩ : ∃ e, e + Nat.log2 k = 23 := ⟨23 - Nat.log2 k, by omega⟩
    have hlow : 2 ^ 23 ≤ k * 2 ^ e := by
      rw [← he, Nat.pow_add, Nat.mul_comm]
      exact Nat.mul_le_mul_right _ (Nat.log2_self_le hpos.ne')
    have hhigh : k * 2 ^ e < 2 ^ 24 := by
      rw [show 24 = (Nat.log2 k + 1) + e by omega, Nat.pow_add]
      exact Nat.mul_lt_mul_of_pos_right Nat.lt_log2_self (Nat.two_pow_pos _)
    refine ⟨(149 - e) * 2 ^ 23 + k * 2 ^ e, by omega, ?_⟩
    rw [patUnits_of_scaled hhigh.le (.inr hlow), Nat.mul_assoc, ← Nat.pow_add, show e + (149 - e) = 149 by omega]

/-- `i2f` of an integer below 2^23 in magnitude is finite and exact (R16). -/
theorem i2f_exact {i : ℤ} (h : i.natAbs < 2 ^ 23) : isFinite (i2f i) = true ∧ realVal (i2f i) = i := by
  obtain ⟨p, hp, hpat⟩ := exists_patUnits_eq_mul h
  have hround : roundMag (i.natAbs * 2 ^ 149) 1 = p := by
    simpa [hpat] using roundMag_exact (p := p) (d := 1) hp.le one_pos
  have hval : val (i2f i) = .fin (decide (i < 0)) (i.natAbs * 2 ^ 149) := by
    rw [i2f, val_roundTo, hround, if_neg hp.ne, hpat]
  obtain ⟨-, -, hfin, -⟩ := classes_of_val_fin hval
  refine ⟨hfin, ?_⟩
  rw [realVal_of_val hval, cast_signedUnits, leastUnit_eq]
  push_cast
  rw [← mul_assoc, signFactor_mul_natAbs]
  field_simp
  norm_num

/-- Settles O38: the quotient of the magnitude by 2^149 is the truncation, and small integers are patterns' own numbers. -/
theorem conversionsAreExact : Obligations.ConversionsAreExact := by
  refine ⟨fun v hv => ?_, fun i hlo hhi => i2f_exact (by omega), by decide⟩
  rw [f2i_of_small hv, realVal_eq, mul_assoc, trunc_signed]
  have hlt := magUnits_div_lt hv
  refine ⟨rfl, ?_⟩
  unfold signedUnits
  split <;> omega

end Sys2Proof.Proofs
end

section
/-! What no step and no action of the host changes, the reset state, and the host's ends of the two channels (O11, O14,
O19). -/

namespace Sys2Proof.Proofs

open Sys2Proof.Machine Sys2Proof.Safety

/-- R47: whatever a step does, it leaves `CFG` as it was. -/
theorem step_cfg {s t : State} (h : step s = .next t) : t.cfg = s.cfg := by
  obtain ⟨-, hdrop⟩ | ⟨-, p, -, hacc | ⟨f, fs, -, hans⟩ | hwait⟩ := step_cases s
  · cases hdrop.symm.trans h
    exact s.dropInFlight_cfg
  · cases hacc.symm.trans h
    exact State.acceptOldest_cfg _
  · cases hans.symm.trans h
    exact State.deliver_cfg _ _
  · cases hwait.symm.trans h
    rfl

theorem takeResponse_cfg {s t : State} {x : Response} (h : s.takeResponse = some (x, t)) : t.cfg = s.cfg := by
  obtain ⟨xs, -, rfl⟩ := State.takeResponse_eq_some.1 h
  rfl

/-- Settles O11: the step by its cases, the host's actions by their field lemmas. -/
theorem constantStoreNeverWritten : Obligations.ConstantStoreNeverWritten :=
  ⟨fun _ _ => step_cfg, fun s f => ⟨s.present_cfg f, s.assertReset_cfg, s.releaseReset_cfg⟩, fun _ _ _ => takeResponse_cfg⟩

/-- R50, R250: the unit with nothing presented and nothing in flight stays as it is, under any constant store. -/
theorem step_idle (cfg : Cfg) : step (State.idle cfg) = .next (State.idle cfg) :=
  congrArg Host.Outcome.next (State.acceptOldest_of_no_request (State.idle_requests cfg))

theorem quiet_idle (cfg : Cfg) : quiet (State.idle cfg) :=
  ⟨State.idle_rst cfg, State.idle_inFlight cfg, State.idle_responses cfg⟩

/-- Where no response is pending, none is ill-formed. -/
theorem responsesWellFormed_of_none {s : State} (h : s.responses = []) : responsesWellFormed s := by
  simp [responsesWellFormed, h]

/-- Settles O14: the reset state is the idle unit with the decided constants. -/
theorem resetIsIdle : Obligations.ResetIsIdle :=
  ⟨quiet_idle cfgRef, State.idle_requests cfgRef, responsesWellFormed_of_none (State.idle_responses cfgRef),
    State.idle_cfg cfgRef, State.idle_pace cfgRef, step_idle cfgRef⟩

/-- The host gets no response exactly where none is pending. -/
theorem takeResponse_eq_none {s : State} : s.takeResponse = none ↔ s.responses = [] := by
  unfold State.takeResponse
  cases s.responses with
  | nil => simp
  | cons y ys => simp

/-- Settles O19: the oldest response is the head of the response channel. -/
theorem hostPresentsAndTakesInOrder : Obligations.HostPresentsAndTakesInOrder :=
  fun _ _ _ xs => ⟨rfl, takeResponse_eq_none.2, fun h => State.takeResponse_eq_some.2 ⟨xs, h, rfl⟩⟩

end Sys2Proof.Proofs
end

section
/-! Acceptance as an event, and progress: outside reset every step uses up some of the work that is left (O18, O15). -/

namespace Sys2Proof.Proofs

open Sys2Proof.Machine Sys2Proof.Safety

/-- Where the pace has the unit accept, or leaves it free with nothing in flight, the step is an acceptance. -/
theorem step_of_aboutToAccept {s : State} (hrst : s.rst = false)
    (h : (∃ p, s.pace = .accept :: p) ∨ (s.pace = [] ∧ s.inFlight = [])) :
    step s = .next (State.acceptOldest { s with pace := s.pace.tail }) := by
  obtain ⟨cfg, rst, requests, inFlight, responses, pace⟩ := s
  obtain rfl : rst = false := hrst
  obtain ⟨p, rfl⟩ | ⟨rfl, rfl⟩ := h <;> rfl

/-- Settles O18: the step is an acceptance, and acceptance moves the oldest request. -/
theorem acceptanceIsOneEvent : Obligations.AcceptanceIsOneEvent := by
  intro s f fs hrst hreq hpace
  rw [step_of_aboutToAccept hrst hpace]
  exact congrArg Host.Outcome.next (State.acceptOldest_of_request hreq)

/-- A bound on the steps until the unit is out of work: a request presented has an acceptance and an answer to come, a command
in flight an answer, and each entry of the pace may be a wait. -/
def work (s : State) : ℕ := s.pace.length + s.inFlight.length + 2 * s.requests.length

theorem work_eq_zero {s : State} : work s = 0 ↔ s.pace = [] ∧ s.inFlight = [] ∧ s.requests = [] := by
  simp [work, and_assoc]

/-- Acceptance uses up work, except where no request is presented. -/
theorem work_acceptOldest (s : State) : s.requests = [] ∧ s.acceptOldest = s ∨ work s = work s.acceptOldest + 1 := by
  cases h : s.requests with
  | nil => exact .inl ⟨rfl, State.acceptOldest_of_no_request h⟩
  | cons f fs =>
    rw [State.acceptOldest_of_request h]
    simp only [work, h, List.length_append, List.length_cons, List.length_nil]
    omega

theorem work_acceptOldest_le (s : State) : work s.acceptOldest ≤ work s := by
  obtain ⟨-, h⟩ | h := work_acceptOldest s
  · exact (congrArg work h).le
  · omega

/-- Where entries of the pace are left, every step uses one up and makes no other work. -/
theorem step_work_paced {s t : State} (hrst : s.rst = false) (hpace : s.pace ≠ []) (h : step s = .next t) :
    work t ≤ work s - 1 := by
  have htail : work { s with pace := s.pace.tail } = work s - 1 := by
    have := List.length_pos_of_ne_nil hpace
    simp only [work, List.length_tail]
    omega
  rw [← htail]
  obtain ⟨hr, -⟩ | ⟨-, p, rfl, hacc | ⟨f, fs, hf, hans⟩ | hwait⟩ := step_cases s
  · simp [hrst] at hr
  · cases hacc.symm.trans h
    exact work_acceptOldest_le _
  · cases hans.symm.trans h
    simp [work, hf]
  · cases hwait.symm.trans h
    exact le_rfl

/-- Where the pace leaves the unit free, every step answers a command in flight, or accepts a request, or finds no work. -/
theorem step_work_free {s t : State} (hrst : s.rst = false) (hpace : s.pace = []) (h : step s = .next t) :
    work t ≤ work s - 1 := by
  cases hf : s.inFlight with
  | nil =>
    have hstep := (step_of_aboutToAccept hrst (.inr ⟨hpace, hf⟩)).symm.trans h
    rw [show { s with pace := s.pace.tail } = s by rw [hpace, List.tail_nil, ← hpace]] at hstep
    cases hstep
    obtain ⟨hreq, hidle⟩ | hwork := work_acceptOldest s
    · rw [hidle, work_eq_zero.2 ⟨hpace, hf, hreq⟩]
    · omega
  | cons f fs =>
    have hans := step_of_aboutToAnswer ⟨hrst, hf, .inl hpace⟩
    rw [answerFrame_eq_deliver] at hans
    cases hans.symm.trans h
    simp only [work, State.deliver_pace, State.deliver_inFlight, State.deliver_requests, hpace, hf, List.tail_nil,
      List.length_nil, List.length_cons]
    omega

/-- Outside reset every step uses up work, as long as there is some. -/
theorem step_work {s t : State} (hrst : s.rst = false) (h : step s = .next t) : work t ≤ work s - 1 := by
  by_cases hpace : s.pace = []
  · exact step_work_free hrst hpace h
  · exact step_work_paced hrst hpace h

/-- A run at least as long as the work left ends with nothing in flight and nothing presented, and keeps `CFG` and the ledger. -/
theorem run_of_work_le (n : ℕ) {s : State} (hrst : s.rst = false) (hn : work s ≤ n) :
    ∃ t : State, Host.Core.run Sys2Proof.core n s = .next t ∧
      t.inFlight = [] ∧ t.requests = [] ∧ t.cfg = s.cfg ∧ ledger t = ledger s := by
  induction n generalizing s with
  | zero =>
    obtain ⟨-, hflight, hreq⟩ := work_eq_zero.1 (Nat.le_zero.1 hn)
    exact ⟨s, rfl, hflight, hreq, rfl, rfl⟩
  | succ n ih =>
    obtain ⟨u, hstep⟩ := stepNeverStops s
    obtain ⟨hurst, huledger⟩ := stepKeepsLedger s u _ ⟨hrst, rfl⟩ hstep
    have huwork : work u ≤ n := (step_work hrst hstep).trans (by omega)
    obtain ⟨t, hrun, hflight, hreq, hcfg, hledger⟩ := ih hurst huwork
    exact ⟨t, (run_succ_of_step n hstep).trans hrun, hflight, hreq, hcfg.trans (step_cfg hstep), hledger.trans huledger⟩

/-- With nothing in flight and nothing presented, the ledger is the pending responses. -/
theorem ledger_eq_responses {s : State} (hflight : s.inFlight = []) (hreq : s.requests = []) : ledger s = s.responses := by
  simp [ledger, hflight, hreq]

/-- Settles O15: the bound is the work left, and the ledger of the final state is its pending responses. -/
theorem everyRequestIsAnswered : Obligations.EveryRequestIsAnswered := by
  intro s hrst
  obtain ⟨t, hrun, hflight, hreq, hcfg, hledger⟩ := run_of_work_le (work s) hrst le_rfl
  exact ⟨t, hrun, hflight, hreq, hcfg, (ledger_eq_responses hflight hreq).symm.trans hledger⟩

end Sys2Proof.Proofs
end

section
/-! Decoding and encoding: the round trip, the legal command words, and the words of R77 one by one (O1, O2, O3). -/

namespace Sys2Proof.Proofs

open Sys2Proof.Machine Sys2Proof.Safety

/-- Decoding an encoded command gives it back. -/
theorem decode_encode (i : Instr) : decode (encode i) = .ok i :=
  decode_eq_ok.2 ⟨cmdReserved_encode i, decodeOp_encode i⟩

/-- R79: the encoder leaves zero the operand words the command does not use. -/
theorem unusedZero_encode (i : Instr) : (encode i).unusedZero = true := by
  rw [Frame.unusedZero, arityOf_encode]
  cases i <;> (simp only [encode]; rfl)

/-- A frame whose unused operand words are zero has its used operand words and zeros after them. -/
theorem operands_eq_of_unusedZero {f : Frame} (h : f.unusedZero = true) :
    f.operands = f.usedOperands ++ List.replicate (5 - arityOf f.cmd) 0 := by
  have hzero : f.operands.drop (arityOf f.cmd) = List.replicate (5 - arityOf f.cmd) 0 :=
    List.eq_replicate_iff.2 ⟨List.length_drop, fun w hw => eq_of_beq (List.all_eq_true.1 h w hw)⟩
  rw [← hzero]
  exact (List.take_append_drop _ _).symm

/-- A frame is its command word and its operand words. -/
theorem frame_eq_of_operands {f g : Frame} (hcmd : f.cmd = g.cmd) (hargs : f.operands = g.operands) : f = g := by
  cases f
  cases g
  simp_all [Frame.operands]

/-- R41, R79: where the unused operand words are zero, the command word and the used operand words are the frame. -/
theorem frame_eq_of_usedOperands {f g : Frame} (hf : f.unusedZero = true) (hg : g.unusedZero = true)
    (hcmd : f.cmd = g.cmd) (hused : f.usedOperands = g.usedOperands) : f = g :=
  frame_eq_of_operands hcmd (by rw [operands_eq_of_unusedZero hf, operands_eq_of_unusedZero hg, hcmd, hused])

/-- A frame with zeros in its unused operand words is the encoding of the command it decodes to. -/
theorem encode_of_decode {f : Frame} {i : Instr} (hzero : f.unusedZero = true) (h : decode f = .ok i) : encode i = f := by
  obtain ⟨hcmd, hargs⟩ := decode_eq_ok_iff.1 h
  obtain ⟨-, hargs'⟩ := decode_eq_ok_iff.1 (decode_encode i)
  exact frame_eq_of_usedOperands (unusedZero_encode i) hzero hcmd (hargs'.symm.trans hargs)

/-- Settles O1: the decoder reads the command word and the used operand words, and the encoder writes those and zeros. -/
theorem decodeEncodeRoundTrip : Obligations.DecodeEncodeRoundTrip :=
  ⟨fun i _ => decode_encode i, fun _ _ => decode_eq_ok_iff.1,
    fun _ _ hasm => encode_of_decode (Bool.and_eq_true_iff.1 hasm).2⟩

/-- R78, R233: whether an opcode is assigned does not depend on the operand words. -/
theorem isSome_decodeOp (op : ℕ) (f g : Frame) : (decodeOp op f).isSome = (decodeOp op g).isSome := by
  unfold decodeOp
  split <;> rfl

/-- The encoder writes command words of R77's list only. -/
theorem cmd_encode_mem (i : Instr) : (encode i).cmd ∈ legalCommandWords := by
  cases i <;> (simp only [encode]; decide)

/-- Every word of R77's list has zero reserved bits and an assigned opcode. -/
theorem assigned_of_mem : ∀ w ∈ legalCommandWords,
    cmdReserved w = 0 ∧ (decodeOp (opcodeOf w) ⟨0, 0, 0, 0, 0, 0⟩).isSome = true := by
  intro w hw
  fin_cases hw <;> exact ⟨rfl, rfl⟩

/-- R78: the frames that decode are those with a command word of R77's list. -/
theorem exists_decode_iff (f : Frame) : (∃ i, decode f = .ok i) ↔ f.cmd ∈ legalCommandWords := by
  constructor
  · rintro ⟨i, hi⟩
    exact (decode_eq_ok_iff.1 hi).1 ▸ cmd_encode_mem i
  · intro hmem
    obtain ⟨hreserved, hsome⟩ := assigned_of_mem f.cmd hmem
    rw [isSome_decodeOp _ _ f] at hsome
    obtain ⟨i, hi⟩ := Option.isSome_iff_exists.1 hsome
    exact ⟨i, decode_eq_ok.2 ⟨hreserved, hi⟩⟩

/-- R230: the response to a frame that decodes to no command. -/
theorem responseTo_of_not_decoded (cfg : Cfg) {f : Frame} (h : ¬∃ i, decode f = .ok i) :
    responseTo cfg f = ⟨0, true⟩ := by
  unfold responseTo
  cases hf : decode f with
  | ok i => exact absurd ⟨i, hf⟩ h
  | error _ => rfl

/-- Settles O2: decoding succeeds on the listed words alone, and any other frame has the fault response. -/
theorem legalExactlyThe39CommandWords : Obligations.LegalExactlyThe39CommandWords := by
  refine fun f => ⟨exists_decode_iff f, fun hcmd s => ?_⟩
  rw [answerFrame_eq_deliver, responseTo_of_not_decoded s.cfg (mt (exists_decode_iff f).1 hcmd)]
  rfl

/-- A reserved bit that is set is the reason to refuse a frame, whatever its opcode (R71). -/
theorem decode_of_reserved {f : Frame} (h : cmdReserved f.cmd ≠ 0) : decode f = .error .reservedBits := if_neg h

/-- With zero reserved bits, an opcode that names no command is the reason to refuse a frame (R78). -/
theorem decode_of_unassigned {f : Frame} (hr : cmdReserved f.cmd = 0) (hop : decodeOp (opcodeOf f.cmd) f = none) :
    decode f = .error .unassignedOpcode := by
  rw [decode, if_pos hr, hop]

/-- A frame with a command's word and, in order, the command's operand words decodes to the command. -/
theorem decode_of_operands {f : Frame} {i : Instr} (hcmd : (encode i).cmd = f.cmd)
    (hargs : i.operands = f.operands.take i.format.arity) : decode f = .ok i :=
  decode_eq_ok_iff.2 ⟨hcmd, by rw [Frame.usedOperands, ← hcmd, arityOf_encode, hargs]⟩

/-- Settles O3: each of the 39 words is its command's own, with as many operand words as the command takes; the two illegal
words are refused for the one reason that holds of them. -/
theorem sampleWordsDecode : Obligations.SampleWordsDecode := by
  intro a b c d e
  and_intros
  iterate 39 exact decode_of_operands rfl rfl
  · exact decode_of_reserved (show cmdReserved 0x00000110 ≠ 0 by decide)
  · exact decode_of_unassigned (show cmdReserved 0x00000069 = 0 from rfl)
      (show decodeOp (opcodeOf 0x00000069) _ = none from rfl)

end Sys2Proof.Proofs
end

section
/-! The form of the responses (R74; O13). -/

namespace Sys2Proof.Proofs

open Sys2Proof.Machine Sys2Proof.Safety

/-- R74: the response to a request, legal or not, has `R = 0` where `F = 1`. -/
theorem responseTo_wellFormed (cfg : Cfg) (f : Frame) (h : (responseTo cfg f).f = true) : (responseTo cfg f).r = 0 := by
  unfold responseTo at h ⊢
  cases hf : decode f with
  | ok i => simp [hf, faultClear] at h
  | error _ => rfl

/-- The form is one of the pending responses alone. -/
theorem responsesWellFormed_congr {s t : State} (h : t.responses = s.responses) :
    responsesWellFormed t ↔ responsesWellFormed s := by
  rw [responsesWellFormed, responsesWellFormed, h]

/-- Delivering the response to a request keeps the form. -/
theorem responsesWellFormed_deliver {s : State} (cfg : Cfg) (f : Frame) (h : responsesWellFormed s) :
    responsesWellFormed (s.deliver (responseTo cfg f)) := by
  intro x hx
  rw [State.deliver_responses, List.mem_append, List.mem_singleton] at hx
  obtain hold | rfl := hx
  · exact h x hold
  · exact responseTo_wellFormed cfg f

/-- Settles O13: a step drops the pending responses, keeps them, or delivers the response to a request behind them. -/
theorem stepKeepsResponseForm : Obligations.StepKeepsResponseForm := by
  intro s t hs hstep
  obtain ⟨-, hdrop⟩ | ⟨-, p, -, hacc | ⟨f, fs, -, hans⟩ | hwait⟩ := step_cases s
  · cases hdrop.symm.trans hstep
    exact responsesWellFormed_of_none s.dropInFlight_responses
  · cases hacc.symm.trans hstep
    exact (responsesWellFormed_congr (State.acceptOldest_responses _)).2 hs
  · cases hans.symm.trans hstep
    exact responsesWellFormed_deliver (s := { s with inFlight := fs, pace := p }) s.cfg f hs
  · cases hwait.symm.trans hstep
    exact hs

end Sys2Proof.Proofs
end

section
/-! Decimal literals of the assembler (R79; O5). -/

namespace Sys2Proof.Proofs

open Sys2Proof.Machine Sys2Proof.Safety

/-- A literal's number as a quotient of naturals: the power of ten stands above the line or below it. -/
theorem decimalWord_eq (neg : Bool) (digits : ℕ) (exp10 : ℤ) : ∃ n d : ℕ, 0 < d ∧
    decimalWord neg digits exp10 = roundTo neg n d ∧ (n / d * leastUnit : ℚ) = digits * (10 : ℚ) ^ exp10 := by
  have hunit : (2 : ℚ) ^ 149 * leastUnit = 1 := by rw [leastUnit_eq]; norm_num
  unfold decimalWord
  split
  next h =>
    obtain ⟨k, rfl⟩ := Int.eq_ofNat_of_zero_le h
    refine ⟨_, _, one_pos, rfl, ?_⟩
    rw [Int.toNat_natCast, zpow_natCast]
    push_cast
    linear_combination (digits : ℚ) * 10 ^ k * hunit
  next h =>
    obtain ⟨k, hk⟩ := Int.eq_ofNat_of_zero_le (show 0 ≤ -exp10 by omega)
    refine ⟨_, _, Nat.pow_pos (by omega), rfl, ?_⟩
    rw [hk, Int.toNat_natCast, show exp10 = -(k : ℤ) by omega, zpow_neg, zpow_natCast]
    push_cast
    linear_combination (digits : ℚ) * (10 ^ k)⁻¹ * hunit

/-- Settles O5: the literal's number is rounded once, and its sign is the rounded word's. -/
theorem decimalLiteralIsNearest : Obligations.DecimalLiteralIsNearest := by
  intro neg digits exp10
  obtain ⟨n, d, hd, hword, hval⟩ := decimalWord_eq neg digits exp10
  rw [hword, mul_assoc, ← hval]
  exact ⟨roundsTo_roundTo neg n hd, signBit_roundTo neg n d⟩

end Sys2Proof.Proofs
end

section
/-! Sign and classification commands: their result words, and the words the two classifiers answer 1 for (O21, O41). -/

namespace Sys2Proof.Proofs

open Sys2Proof.Machine Sys2Proof.Safety

/-- A command answers the word of its rule. -/
theorem answers_of_resultOf {i : Instr} {s : State} {r : Word} (h : resultOf s.cfg i = r) : Answers i s r :=
  h ▸ exec_eq_deliver i s

theorem isNaN_iff {w : Word} : isNaN w = true ↔ expField w = 255 ∧ mantissa w ≠ 0 := by simp [isNaN]

theorem isInf_iff {w : Word} : isInf w = true ↔ expField w = 255 ∧ mantissa w = 0 := by simp [isInf]

/-- Settles O21: each command answers its rule's word; the classifiers' rules are stated of the fields. -/
theorem signResults : Obligations.SignResults := fun _ _ _ _ =>
  ⟨answers_of_resultOf rfl, answers_of_resultOf rfl, answers_of_resultOf rfl, answers_of_resultOf rfl,
    answers_of_resultOf (if_congr isNaN_iff rfl rfl), answers_of_resultOf (if_congr isInf_iff rfl rfl)⟩

theorem boolWord_eq_zero_or_one (b : Bool) : boolWord b = 0 ∨ boolWord b = 1 := by cases b <;> decide

theorem boolWord_eq_one_iff {b : Bool} : boolWord b = 1 ↔ b = true := by cases b <;> decide

/-- No word is both a NaN and an infinity (R11). -/
theorem not_isNaN_and_isInf (w : Word) : ¬(isNaN w = true ∧ isInf w = true) := by
  rw [isNaN_iff, isInf_iff]
  rintro ⟨⟨-, hne⟩, -, heq⟩
  exact hne heq

/-- The infinities are two words, one of each sign. -/
theorem isInf_iff_eq {w : Word} : isInf w = true ↔ w = 0x7F800000 ∨ w = 0xFF800000 := by
  constructor
  · intro h
    have hw := eq_infOf_of_val (val_of_isInf h)
    cases hs : signBit w with
    | false => exact .inl (by rw [hw, hs]; rfl)
    | true => exact .inr (by rw [hw, hs]; rfl)
  · rintro (rfl | rfl) <;> decide

/-- The magnitude pattern of a word as a number. -/
theorem toNat_magnitude (w : Word) : (magnitude w).toNat = expField w * 2 ^ 23 + mantissa w := by
  have he := expField_lt w
  have hm := mantissa_lt w
  have hfields := packWord_fields (magnitude w)
  rw [signBit_magnitude, expField_magnitude, mantissa_magnitude] at hfields
  rw [← hfields, toNat_packWord false (by omega)]
  simp

/-- The NaNs are the words whose magnitude pattern is above that of the infinities. -/
theorem isNaN_iff_lt {w : Word} : isNaN w = true ↔ 0x7F800000 < (w &&& 0x7FFFFFFF) := by
  have he := expField_lt w
  have hm := mantissa_lt w
  rw [isNaN_iff, ← magnitude, BitVec.lt_def, toNat_magnitude,
    show (0x7F800000 : Word).toNat = 255 * 2 ^ 23 from rfl]
  omega

/-- Settles O41: the two result words are 1 for the NaNs and for the infinities. -/
theorem classifiersAreExclusive : Obligations.ClassifiersAreExclusive := by
  intro s w
  refine ⟨isNanWord w, isInfWord w, answers_of_resultOf rfl, answers_of_resultOf rfl, boolWord_eq_zero_or_one _,
    boolWord_eq_zero_or_one _, ?_, boolWord_eq_one_iff.trans isInf_iff_eq, boolWord_eq_one_iff.trans isNaN_iff_lt⟩
  rw [isNanWord, isInfWord, boolWord_eq_one_iff, boolWord_eq_one_iff]
  exact not_isNaN_and_isInf w

end Sys2Proof.Proofs
end

section
/-! Bit View commands: the two of them answer their operand word (R91 to R93; O20). -/

namespace Sys2Proof.Proofs

open Sys2Proof.Machine Sys2Proof.Safety

/-- R91, at every state. -/
theorem answers_tobits (w : Word) (s : State) : Answers (.tobits w) s w := answers_of_resultOf rfl

/-- R92, at every state. -/
theorem answers_frombits (w : Word) (s : State) : Answers (.frombits w) s w := answers_of_resultOf rfl

/-- Settles O20: the first command of each round trip answers the word itself, and the second answers it again at whatever
state the first one leaves. -/
theorem bitViewIsInverse : Obligations.BitViewIsInverse := by
  intro s w
  have hto := answers_tobits w
  have hfrom := answers_frombits w
  exact ⟨hto s, hfrom s, ⟨w, _, hto s, hto s, hfrom _⟩, ⟨w, _, hfrom s, hfrom s, hto _⟩⟩

end Sys2Proof.Proofs
end

section
/-! ABS and SIGN by the value: comparing with `+0` is comparing the extended value with 0 (R21, R101, R106; O39, O40). -/

namespace Sys2Proof.Proofs

open Sys2Proof.Machine Sys2Proof.Safety

@[simp] theorem isNaN_posZero : isNaN posZero = false := isNaN_zeroOf false

@[simp] theorem extVal_posZero : extVal posZero = 0 := by
  have h : extVal posZero = _ := extVal_of_val_fin (val_zeroOf false)
  simpa [signedUnits] using h

/-- R21 against `+0` from below. -/
theorem flt_posZero_left_iff {w : Word} (h : isNaN w = false) : flt posZero w = true ↔ 0 < extVal w := by
  rw [(comparisons_of_not_nan isNaN_posZero h).1, extVal_posZero]

/-- R21 against `+0` from above. -/
theorem flt_posZero_right_iff {w : Word} (h : isNaN w = false) : flt w posZero = true ↔ extVal w < 0 := by
  rw [(comparisons_of_not_nan h isNaN_posZero).1, extVal_posZero]

theorem fle_posZero_left_iff {w : Word} (h : isNaN w = false) : fle posZero w = true ↔ 0 ≤ extVal w := by
  rw [(comparisons_of_not_nan isNaN_posZero h).2.1, extVal_posZero]

@[simp] theorem isNaN_magnitude (w : Word) : isNaN (magnitude w) = isNaN w := by simp [isNaN]

/-- The magnitude does not see the sign bit, NaN included. -/
@[simp] theorem magnitude_fneg (w : Word) : magnitude (fneg w) = magnitude w :=
  word_eq_of_fields (by simp) (by simp) (by simp)

/-- A word whose sign bit is clear stands for no negative value: it is `+Inf`, or a sign factor 1 times a magnitude. -/
theorem extVal_nonneg {w : Word} (h : signBit w = false) : 0 ≤ extVal w := by
  cases hi : isInf w with
  | true => simp [extVal, hi, h]
  | false =>
    have hreal : 0 ≤ realVal w := by
      rw [realVal_eq, h, signFactor, if_neg Bool.false_ne_true, one_mul]
      exact mul_nonneg (Nat.cast_nonneg _) leastUnit_pos.le
    simpa [extVal, hi] using hreal

/-- Settles O39: both commands answer the magnitude, which is NaN where the operand is. -/
theorem absIsEvenAndNonNegative : Obligations.AbsIsEvenAndNonNegative := by
  intro s w
  refine ⟨magnitude w, answers_of_resultOf rfl, answers_of_resultOf (magnitude_fneg w), signBit_magnitude w, ?_, ?_⟩
  · intro h
    exact (fle_posZero_left_iff (by rwa [isNaN_magnitude])).2 (extVal_nonneg (signBit_magnitude w))
  · intro h
    exact fle_nan_right (val_eq_nan_iff.2 (by rwa [isNaN_magnitude]))

/-- R101 for NaN: neither comparison holds. -/
theorem signOfWord_of_nan {w : Word} (h : isNaN w = true) : signOfWord w = posZero := by
  have hval := val_eq_nan_iff.2 h
  simp [signOfWord, flt_nan_left hval, flt_nan_right hval]

/-- R101 for the other words: the two comparisons are those of the value with 0. -/
theorem signOfWord_of_not_nan {w : Word} (h : isNaN w = false) :
    signOfWord w = if 0 < extVal w then one else if extVal w < 0 then minusOne else posZero :=
  if_congr (flt_posZero_left_iff h) rfl (if_congr (flt_posZero_right_iff h) rfl rfl)

/-- Settles O40: the order of the value and 0 decides between the three words. -/
theorem signByValue : Obligations.SignByValue := by
  intro s w
  refine ⟨fun h => answers_of_resultOf (signOfWord_of_nan h),
    fun h hv => answers_of_resultOf ((signOfWord_of_not_nan h).trans ?_),
    fun h hv => answers_of_resultOf ((signOfWord_of_not_nan h).trans ?_),
    fun h hv => answers_of_resultOf ((signOfWord_of_not_nan h).trans ?_)⟩
  · exact if_pos hv
  · exact (if_neg hv.asymm).trans (if_pos hv)
  · exact (if_neg hv.le.not_gt).trans (if_neg hv.ge.not_gt)

end Sys2Proof.Proofs
end

section
/-! The numbers the rounding commands work with, exactly: a sum that is a multiple of 1/2 of magnitude at most 2^23 is not
rounded (R11, R17), and the comparisons of finite words are those of their values (R21). -/

namespace Sys2Proof.Proofs

open Sys2Proof.Machine Sys2Proof.Safety

/-- The word is finite and stands for the number `x`. -/
def HasValue (w : Word) (x : ℚ) : Prop := isFinite w = true ∧ realVal w = x

theorem hasValue_realVal {w : Word} (h : isFinite w = true) : HasValue w (realVal w) := ⟨h, rfl⟩

theorem hasValue_one : HasValue one 1 := by unfold HasValue; decide +kernel

theorem hasValue_half : HasValue half (1 / 2) := by unfold HasValue; decide +kernel

theorem hasValue_posZero : HasValue posZero 0 := zero_of_eq_zeroOf (s := false) rfl

/-- Every finite value is below the bound of R17. -/
theorem abs_realVal_lt_overflowBound {w : Word} (h : isFinite w = true) : |realVal w| < overflowBound := by
  have hexp := isFinite_iff.1 h
  have he := expField_lt w
  have hm := mantissa_lt w
  have hround := roundMag_exact (p := expField w * 2 ^ 23 + mantissa w) (d := 1) (by omega) one_pos
  rw [mul_one, ← magUnits_eq_patUnits] at hround
  have hiff := overflowBound_le_iff (magUnits w) one_pos
  rw [Nat.cast_one, div_one, ← abs_realVal, hround] at hiff
  exact not_le.1 (mt hiff.1 (by omega))

/-- A number that is some word's own value is not changed by rounding (R17). -/
theorem hasValue_of_roundsTo {v w : Word} {x : ℚ} (hv : HasValue v x) (h : RoundsTo x w) : HasValue w x := by
  obtain ⟨hfin, rfl⟩ := hv
  rw [RoundsTo, if_neg (not_le.2 (abs_realVal_lt_overflowBound hfin))] at h
  obtain ⟨hw, hnear, -⟩ := h
  have hzero := hnear v hfin
  rw [sub_self, abs_zero, abs_nonpos_iff, sub_eq_zero] at hzero
  exact ⟨hw, hzero⟩

/-- A significand of at most 24 bits at any scale is the number of some pattern: halve the scale until it is normalised. -/
theorem exists_patUnits_eq_scaled (j : ℕ) : ∀ {k : ℕ}, k ≤ 2 ^ 24 → ∃ p ≤ (j + 2) * 2 ^ 23, patUnits p = k * 2 ^ j := by
  induction j with
  | zero => exact fun {k} hk => ⟨0 * 2 ^ 23 + k, by omega, patUnits_of_scaled hk (.inl rfl)⟩
  | succ j ih =>
    intro k hk
    rcases Nat.lt_or_ge k (2 ^ 23) with hlow | hnorm
    · obtain ⟨p, hp, hpat⟩ := ih (k := 2 * k) (by omega)
      exact ⟨p, hp.trans (Nat.mul_le_mul_right _ (by omega)), by rw [hpat, Nat.pow_succ]; ring⟩
    · exact ⟨(j + 1) * 2 ^ 23 + k, by omega, patUnits_of_scaled hk (.inr hnorm)⟩

/-- The multiples of 1/2 of magnitude at most 2^23 are values of words. -/
theorem exists_hasValue_half {i : ℤ} (h : i.natAbs ≤ 2 ^ 24) : ∃ v, HasValue v (i / 2) := by
  obtain ⟨p, hp, hpat⟩ := exists_patUnits_eq_scaled 148 (k := i.natAbs) (by omega)
  have hval := val_packWord (decide (i < 0)) (m := p) (by omega)
  rw [if_neg (by omega), hpat] at hval
  obtain ⟨-, -, hfin, -⟩ := classes_of_val_fin hval
  refine ⟨_, hfin, ?_⟩
  rw [realVal_of_val hval, cast_signedUnits, leastUnit_eq]
  push_cast
  rw [← mul_assoc, signFactor_mul_natAbs]
  field_simp
  norm_num

section Values

variable {a b : Word} {x y : ℚ}

/-- A sum that is a small multiple of 1/2 is exact. -/
theorem hasValue_fadd (ha : HasValue a x) (hb : HasValue b y) {i : ℤ} (hi : i.natAbs ≤ 2 ^ 24) (hsum : x + y = i / 2) :
    HasValue (fadd a b) (x + y) := by
  obtain ⟨v, hv⟩ := exists_hasValue_half hi
  obtain ⟨hfa, rfl⟩ := ha
  obtain ⟨hfb, rfl⟩ := hb
  exact hasValue_of_roundsTo (hsum ▸ hv) (roundsTo_fadd hfa hfb)

theorem hasValue_fneg (h : HasValue a x) : HasValue (fneg a) (-x) :=
  ⟨(isFinite_fneg a).trans h.1, (realVal_fneg a).trans (congrArg Neg.neg h.2)⟩

/-- A difference that is a small multiple of 1/2 is exact. -/
theorem hasValue_fsub (ha : HasValue a x) (hb : HasValue b y) {i : ℤ} (hi : i.natAbs ≤ 2 ^ 24) (hdiff : x - y = i / 2) :
    HasValue (fsub a b) (x - y) := by
  rw [sub_eq_add_neg] at hdiff ⊢
  exact hasValue_fadd ha (hasValue_fneg hb) hi hdiff

theorem extVal_of_hasValue (h : HasValue a x) : isNaN a = false ∧ extVal a = ((x : WithTop ℚ) : WithBot (WithTop ℚ)) := by
  obtain ⟨hfin, rfl⟩ := h
  obtain ⟨hnan, hinf, -⟩ := classes_of_val_fin (val_of_isFinite hfin)
  exact ⟨hnan, by simp [extVal, hinf]⟩

/-- R21 for finite words: less than. -/
theorem flt_iff_of_hasValue (ha : HasValue a x) (hb : HasValue b y) : flt a b = true ↔ x < y := by
  obtain ⟨hna, hxa⟩ := extVal_of_hasValue ha
  obtain ⟨hnb, hxb⟩ := extVal_of_hasValue hb
  rw [(comparisons_of_not_nan hna hnb).1, hxa, hxb, WithBot.coe_lt_coe, WithTop.coe_lt_coe]

/-- R21 for finite words: less than or equal. -/
theorem fle_iff_of_hasValue (ha : HasValue a x) (hb : HasValue b y) : fle a b = true ↔ x ≤ y := by
  obtain ⟨hna, hxa⟩ := extVal_of_hasValue ha
  obtain ⟨hnb, hxb⟩ := extVal_of_hasValue hb
  rw [(comparisons_of_not_nan hna hnb).2.1, hxa, hxb, WithBot.coe_le_coe, WithTop.coe_le_coe]

end Values

end Sys2Proof.Proofs
end

section
/-! The large-magnitude guard (R120): it is a bound on the magnitude, and the words it holds of are unchanged by the rounding
commands and, where finite, integers (O42). -/

namespace Sys2Proof.Proofs

open Sys2Proof.Machine Sys2Proof.Safety

theorem big_iff {w : Word} : big w = true ↔ 150 ≤ expField w := by simp [big]

/-- The guard in units of 2^-149: the magnitude is at least 2^23. -/
theorem le_magUnits_iff (w : Word) : 2 ^ 23 * 2 ^ 149 ≤ magUnits w ↔ 150 ≤ expField w := by
  have hguard : patUnits (150 * 2 ^ 23) = 2 ^ 23 * 2 ^ 149 := by decide +kernel
  have hm := mantissa_lt w
  rw [magUnits_eq_patUnits, ← hguard, patUnits_strictMono.le_iff_le]
  omega

theorem le_abs_realVal_iff (w : Word) : 2 ^ 23 ≤ |realVal w| ↔ 150 ≤ expField w := by
  rw [← le_magUnits_iff, abs_realVal, leastUnit_eq, mul_one_div, le_div_iff₀ (by positivity)]
  norm_cast

/-- From the guard on, the spacing of the values is at least 1. -/
theorem exists_int_of_big {w : Word} (h : 150 ≤ expField w) : ∃ n : ℤ, realVal w = n := by
  obtain ⟨e, he⟩ : ∃ e, expField w = e + 150 := ⟨expField w - 150, by omega⟩
  refine ⟨signedUnits (signBit w) ((2 ^ 23 + mantissa w) * 2 ^ e), ?_⟩
  rw [realVal_eq, cast_signedUnits, leastUnit_eq, magUnits, if_neg (by omega), he, show e + 150 - 1 = e + 149 by omega,
    pow_add]
  push_cast
  field_simp
  norm_num

/-- The words the guard does not hold of are finite. -/
theorem big_of_not_isFinite {w : Word} (h : isFinite w = false) : 150 ≤ expField w := by
  have : expField w = 255 := by simpa [isFinite] using h
  omega

section Guard

variable {w : Word} (h : 150 ≤ expField w)
include h

theorem truncWord_of_big : truncWord w = w := if_pos (big_iff.2 h)

theorem floorWord_of_big : floorWord w = w := if_pos (big_iff.2 h)

theorem ceilWord_of_big : ceilWord w = w := if_pos (big_iff.2 h)

theorem roundWord_of_big : roundWord w = w := if_pos (big_iff.2 h)

end Guard

/-- R21: every finite number is at most `+Inf`. -/
theorem fle_fin_inf {a b : Word} {s : Bool} {m : ℕ} (ha : val a = .fin s m) (hb : val b = .inf false) :
    fle a b = true := by simp [fle, ha, hb]

/-- R120: for a word that is not NaN the guard is the comparison of `2^23` with its magnitude. -/
theorem big_eq_fle {w : Word} (h : isNaN w = false) : big w = fle 0x4B000000 (magnitude w) := by
  rw [Bool.eq_iff_iff, big_iff]
  have hguard : HasValue 0x4B000000 (2 ^ 23) := by unfold HasValue; decide +kernel
  cases hfin : isFinite w with
  | true =>
    have hmag : HasValue (magnitude w) |realVal w| := by
      refine ⟨by simpa [isFinite] using hfin, ?_⟩
      rw [abs_realVal, realVal_eq, signBit_magnitude, magUnits_magnitude, signFactor, if_neg Bool.false_ne_true, one_mul]
    rw [fle_iff_of_hasValue hguard hmag, le_abs_realVal_iff]
  | false =>
    have hbig := big_of_not_isFinite hfin
    have hexp : expField w = 255 := by simpa [isFinite] using hfin
    have hinf : val (magnitude w) = .inf false := by
      rw [val_eq_inf_iff]
      simpa [isInf, isNaN, hexp] using h
    have hle : fle 0x4B000000 (magnitude w) = true := fle_fin_inf (val_of_isFinite hguard.1) hinf
    exact iff_of_true hbig hle

/-- Settles O42: below the exponent of NaN and infinity the guard is a bound on the value. -/
theorem largeMagnitudeGuard : Obligations.LargeMagnitudeGuard := by
  intro s w
  refine ⟨big_iff, big_eq_fle, fun h => ⟨?_, ?_⟩, fun h => ?_, fun h => ?_⟩
  · exact big_iff.2 (by have := (isNaN_iff.1 h).1; omega)
  · exact fle_nan_right (val_eq_nan_iff.2 ((isNaN_magnitude w).trans h))
  · exact big_iff.2 (by have := (isInf_iff.1 h).1; omega)
  · have hbig := big_iff.1 h
    exact ⟨answers_of_resultOf (floorWord_of_big hbig), answers_of_resultOf (ceilWord_of_big hbig),
      answers_of_resultOf (roundWord_of_big hbig)⟩

end Sys2Proof.Proofs
end

section
/-! `TRUNC`, `FLOOR`, `CEIL` and `ROUND` by value (R121 to R124; O43, O44, O45). Below the guard all four start from the
integer part toward zero, which differs from the floor and from the ceiling by the one comparison of the pseudocode. -/

namespace Sys2Proof.Proofs

open Sys2Proof.Machine Sys2Proof.Safety

/-- The integer part of a rational, toward zero. -/
def truncInt (x : ℚ) : ℤ := if x < 0 then ⌈x⌉ else ⌊x⌋

/-- The integer nearest to a rational, halves away from zero. -/
def roundInt (x : ℚ) : ℤ := if 0 ≤ x then ⌊x + 1 / 2⌋ else ⌈x - 1 / 2⌉

theorem truncInt_intCast (n : ℤ) : truncInt n = n := by simp [truncInt]

theorem truncInt_eq_zero {x : ℚ} (h : |x| < 1) : truncInt x = 0 := by
  obtain ⟨hlo, hhi⟩ := abs_lt.1 h
  unfold truncInt
  split
  next hneg => exact Int.ceil_eq_zero_iff.2 ⟨hlo, hneg.le⟩
  next hpos => exact Int.floor_eq_zero_iff.2 ⟨not_lt.1 hpos, hhi⟩

/-- The floor is one below the integer part where the number is below it (R122). -/
theorem floor_eq_truncInt (x : ℚ) : ⌊x⌋ = if x < truncInt x then truncInt x - 1 else truncInt x := by
  unfold truncInt
  split
  next hneg =>
    have hceil := Int.ceil_lt_add_one x
    rw [Int.floor_eq_iff]
    split
    next hlt => push_cast; exact ⟨by linarith, by linarith⟩
    next hle => exact ⟨not_lt.1 hle, by linarith [Int.le_ceil x]⟩
  next hpos => rw [if_neg (Int.floor_le x).not_gt]

theorem truncInt_neg (x : ℚ) : truncInt (-x) = -truncInt x := by
  unfold truncInt
  rcases lt_trichotomy x 0 with hneg | rfl | hpos
  · rw [if_neg (by linarith), if_pos hneg, Int.floor_neg]
  · simp
  · rw [if_pos (by linarith), if_neg hpos.not_gt, Int.ceil_neg]

/-- The ceiling is one above the integer part where the number is above it (R123): the floor of the negated number. -/
theorem ceil_eq_truncInt (x : ℚ) : ⌈x⌉ = if truncInt x < x then truncInt x + 1 else truncInt x := by
  have h := floor_eq_truncInt (-x)
  rw [truncInt_neg, Int.floor_neg, Int.cast_neg] at h
  simp only [neg_lt_neg_iff] at h
  split_ifs at h ⊢ <;> omega

theorem roundInt_intCast (n : ℤ) : roundInt n = n := by
  unfold roundInt
  split
  · exact Int.floor_eq_iff.2 ⟨by linarith, by linarith⟩
  · exact Int.ceil_eq_iff.2 ⟨by linarith, by linarith⟩

section Small

variable {w : Word} (h : expField w < 150)
include h

theorem big_of_small : big w = false := decide_eq_false (by omega)

/-- R15 under the guard: the conversion is the integer part, of at most 23 bits. -/
theorem f2i_eq_truncInt : f2i w = truncInt (realVal w) ∧ (truncInt (realVal w)).natAbs < 2 ^ 23 := by
  obtain ⟨hval, hlo, hhi⟩ := conversionsAreExact.1 w h
  have heq : f2i w = truncInt (realVal w) := hval
  rw [heq] at hlo hhi
  exact ⟨heq, by omega⟩

theorem isFinite_of_small : isFinite w = true := isFinite_iff.2 (by omega)

/-- The word the pseudocode of `FLOOR` and `CEIL` calls `t`. -/
theorem hasValue_trunc : HasValue (i2f (f2i w)) (truncInt (realVal w)) := by
  obtain ⟨heq, hlt⟩ := f2i_eq_truncInt h
  rw [heq]
  exact i2f_exact hlt

theorem truncWord_of_small : truncWord w = i2f (f2i w) := by simp [truncWord, big_of_small h]

theorem floorWord_of_small :
    floorWord w = if realVal w < truncInt (realVal w) then fsub (i2f (f2i w)) one else i2f (f2i w) := by
  simp [floorWord, big_of_small h, flt_iff_of_hasValue (hasValue_realVal (isFinite_of_small h)) (hasValue_trunc h)]

theorem ceilWord_of_small :
    ceilWord w = if truncInt (realVal w) < realVal w then fadd (i2f (f2i w)) one else i2f (f2i w) := by
  simp [ceilWord, big_of_small h, flt_iff_of_hasValue (hasValue_trunc h) (hasValue_realVal (isFinite_of_small h))]

theorem roundWord_of_small :
    roundWord w = if 0 ≤ realVal w then floorWord (fadd w half) else ceilWord (fsub w half) := by
  simp [roundWord, big_of_small h, fle_iff_of_hasValue hasValue_posZero (hasValue_realVal (isFinite_of_small h))]

end Small

section Finite

variable {w : Word} {x : ℚ} (h : HasValue w x)
include h

/-- A finite word is an integer from the guard on, and below it a number of magnitude below 2^23. -/
theorem big_or_small : (150 ≤ expField w ∧ ∃ n : ℤ, x = n) ∨ (expField w < 150 ∧ |x| < 2 ^ 23) := by
  obtain ⟨-, rfl⟩ := h
  rcases Nat.lt_or_ge (expField w) 150 with hsmall | hbig
  · exact .inr ⟨hsmall, not_le.1 (mt (le_abs_realVal_iff w).1 hsmall.not_ge)⟩
  · exact .inl ⟨hbig, exists_int_of_big hbig⟩

/-- R121 by value. -/
theorem hasValue_truncWord : HasValue (truncWord w) (truncInt x) := by
  rcases big_or_small h with ⟨hbig, n, rfl⟩ | ⟨hsmall, -⟩
  · rwa [truncWord_of_big hbig, truncInt_intCast]
  · obtain ⟨-, rfl⟩ := h
    rw [truncWord_of_small hsmall]
    exact hasValue_trunc hsmall

/-- R122 by value: the subtraction of 1.0 is exact. -/
theorem hasValue_floorWord : HasValue (floorWord w) (⌊x⌋ : ℤ) := by
  rcases big_or_small h with ⟨hbig, n, rfl⟩ | ⟨hsmall, -⟩
  · rwa [floorWord_of_big hbig, Int.floor_intCast]
  · obtain ⟨-, rfl⟩ := h
    have ht := hasValue_trunc hsmall
    have hlt := (f2i_eq_truncInt hsmall).2
    rw [floorWord_of_small hsmall, floor_eq_truncInt]
    split
    · push_cast
      exact hasValue_fsub ht hasValue_one (i := 2 * truncInt (realVal w) - 2) (by omega) (by push_cast; ring)
    · exact ht

/-- R123 by value: the addition of 1.0 is exact. -/
theorem hasValue_ceilWord : HasValue (ceilWord w) (⌈x⌉ : ℤ) := by
  rcases big_or_small h with ⟨hbig, n, rfl⟩ | ⟨hsmall, -⟩
  · rwa [ceilWord_of_big hbig, Int.ceil_intCast]
  · obtain ⟨-, rfl⟩ := h
    have ht := hasValue_trunc hsmall
    have hlt := (f2i_eq_truncInt hsmall).2
    rw [ceilWord_of_small hsmall, ceil_eq_truncInt]
    split
    · push_cast
      exact hasValue_fadd ht hasValue_one (i := 2 * truncInt (realVal w) + 2) (by omega) (by push_cast; ring)
    · exact ht

/-- Below 1 in magnitude the guard does not hold and the integer part is `+0`, whatever the sign of the operand. -/
theorem trunc_of_abs_lt_one (hx : |x| < 1) : expField w < 150 ∧ truncInt (realVal w) = 0 ∧ i2f (f2i w) = posZero := by
  obtain ⟨-, rfl⟩ := h
  have hsmall : expField w < 150 := by
    refine not_le.1 (mt (le_abs_realVal_iff w).2 (not_le.2 (hx.trans ?_)))
    norm_num
  have hzero := truncInt_eq_zero hx
  refine ⟨hsmall, hzero, ?_⟩
  rw [(f2i_eq_truncInt hsmall).1, hzero]
  exact conversionsAreExact.2.2

theorem floorWord_eq_posZero (hx : ⌊x⌋ = 0) : floorWord w = posZero := by
  obtain ⟨hlo, hhi⟩ := Int.floor_eq_zero_iff.1 hx
  obtain ⟨hsmall, hzero, hword⟩ := trunc_of_abs_lt_one h (abs_lt.2 ⟨by linarith, hhi⟩)
  rw [floorWord_of_small hsmall, hzero, hword, h.2, Int.cast_zero, if_neg hlo.not_gt]

theorem ceilWord_eq_posZero (hx : ⌈x⌉ = 0) : ceilWord w = posZero := by
  obtain ⟨hlo, hhi⟩ := Int.ceil_eq_zero_iff.1 hx
  obtain ⟨hsmall, hzero, hword⟩ := trunc_of_abs_lt_one h (abs_lt.2 ⟨hlo, by linarith⟩)
  rw [ceilWord_of_small hsmall, hzero, hword, h.2, Int.cast_zero, if_neg hhi.not_gt]

/-- R124 by value where the operand is a multiple of 1/2: the sum with, or the difference from, 0.5 is exact. -/
theorem hasValue_roundWord {i : ℤ} (hx : x = i / 2) : HasValue (roundWord w) (roundInt x) := by
  rcases big_or_small h with ⟨hbig, n, rfl⟩ | ⟨hsmall, hlt⟩
  · rwa [roundWord_of_big hbig, roundInt_intCast]
  · have hi : -(2 ^ 24) < i ∧ i < 2 ^ 24 := by
      obtain ⟨hlo, hhi⟩ := abs_lt.1 hlt
      constructor
      · have : ((-(2 ^ 24) : ℤ) : ℚ) < i := by push_cast; linarith
        exact_mod_cast this
      · have : (i : ℚ) < ((2 ^ 24 : ℤ) : ℚ) := by push_cast; linarith
        exact_mod_cast this
    rw [roundWord_of_small hsmall, h.2, roundInt]
    split
    · refine hasValue_floorWord (hasValue_fadd h hasValue_half (i := i + 1) (by omega) ?_)
      rw [hx]; push_cast; ring
    · refine hasValue_ceilWord (hasValue_fsub h hasValue_half (i := i - 1) (by omega) ?_)
      rw [hx]; push_cast; ring

end Finite

/-- Settles O43: the value is the integer part, and the word of the integer 0 is `+0`. -/
theorem truncIsTowardZero : Obligations.TruncIsTowardZero := by
  intro w
  refine ⟨truncWord_of_big, fun h => ?_, fun h hlt => ?_⟩
  · obtain ⟨hfin, hval⟩ := hasValue_truncWord (hasValue_realVal h)
    refine ⟨hfin, hval.trans ?_⟩
    unfold truncInt
    split <;> rfl
  · obtain ⟨hsmall, -, hword⟩ := trunc_of_abs_lt_one (hasValue_realVal h) hlt
    exact (truncWord_of_small hsmall).trans hword

/-- Settles O44: the values are the floor and the ceiling, and each is zero only where the integer part already is. -/
theorem floorAndCeilAreExact : Obligations.FloorAndCeilAreExact := by
  intro s w h
  have hw := hasValue_realVal h
  obtain ⟨hffin, hfval⟩ := hasValue_floorWord hw
  obtain ⟨hcfin, hcval⟩ := hasValue_ceilWord hw
  refine ⟨⟨_, answers_of_resultOf rfl, hffin, hfval, fun hz => floorWord_eq_posZero hw ?_⟩,
    ⟨_, answers_of_resultOf rfl, hcfin, hcval, fun hz => ceilWord_eq_posZero hw ?_⟩⟩
  · exact_mod_cast hfval.symm.trans hz
  · exact_mod_cast hcval.symm.trans hz

/-- Settles O45: integers and halves are multiples of 1/2, which ROUND takes to the nearest integer away from zero. -/
theorem roundTakesHalvesAwayFromZero : Obligations.RoundTakesHalvesAwayFromZero := by
  intro s w n h
  have hround {i m : ℤ} (hx : realVal w = i / 2) (hm : roundInt (realVal w) = m) :
      ∃ r, Answers (.round w) s r ∧ isFinite r = true ∧ realVal r = m :=
    ⟨_, answers_of_resultOf rfl, hm ▸ hasValue_roundWord (hasValue_realVal h) hx⟩
  refine ⟨fun hx => ?_, fun hx hpos => ?_, fun hx hneg => ?_⟩
  · exact hround (i := 2 * n) (by rw [hx]; push_cast; ring) (hx ▸ roundInt_intCast n)
  · have hsum : realVal w + 1 / 2 = ((n + 1 : ℤ) : ℚ) := by rw [hx]; push_cast; ring
    have hm : roundInt (realVal w) = n + 1 := by rw [roundInt, if_pos hpos.le, hsum, Int.floor_intCast]
    exact_mod_cast hround (i := 2 * n + 1) (by rw [hx]; push_cast; ring) hm
  · have hdiff : realVal w - 1 / 2 = n := by rw [hx]; ring
    have hm : roundInt (realVal w) = n := by rw [roundInt, if_neg hneg.not_ge, hdiff, Int.ceil_intCast]
    exact hround (i := 2 * n + 1) (by rw [hx]; push_cast; ring) hm

end Sys2Proof.Proofs
end

section
/-! FRACT, FMOD and MOD at the edges, and the result words of the whole family (R122 to R127; O46, O47, O22). -/

namespace Sys2Proof.Proofs

open Sys2Proof.Machine Sys2Proof.Safety

/-- R18: a finite word minus itself is `+0`, for `-0` too. -/
theorem fsub_self_of_isFinite {w : Word} (h : isFinite w = true) : fsub w w = 0x00000000 := by
  have hsum : realVal w + realVal (fneg w) = 0 := by rw [realVal_fneg, add_neg_cancel]
  rw [fsub, fadd_of_zero_sum h ((isFinite_fneg w).trans h) hsum, if_neg]
  rintro ⟨rfl, hneg⟩
  exact absurd hneg (by decide)

/-- R19: an infinity minus itself, and any difference with a NaN, is `QNAN`. -/
theorem fsub_self_of_not_isFinite {w : Word} (h : isFinite w = false) : fsub w w = 0x7FC00000 := by
  rw [(fsub_qnanExactlyWhere w w).eq_qnan_iff]
  cases hval : val w with
  | nan => exact .inl (val_eq_nan_iff.1 hval)
  | inf s =>
    obtain ⟨-, hinf, -⟩ := classes_of_val_inf hval
    exact .inr (.inr ⟨hinf, hinf, rfl⟩)
  | fin s m =>
    obtain ⟨-, -, hfin, -⟩ := classes_of_val_fin hval
    simp [hfin] at h

/-- R125 from the guard on: `FLOOR` is the operand. -/
theorem fractWord_of_big {w : Word} (h : 150 ≤ expField w) : fractWord w = fsub w w := by
  rw [fractWord, floorWord_of_big h]

/-- Settles O46: `FRACT` of a word the guard holds of is the word minus itself. -/
theorem fractOfLargeOperands : Obligations.FractOfLargeOperands := fun _ _ =>
  ⟨fun hfin hbig => answers_of_resultOf ((fractWord_of_big hbig).trans (fsub_self_of_isFinite hfin)),
    fun hfin => answers_of_resultOf
      ((fractWord_of_big (big_of_not_isFinite hfin)).trans (fsub_self_of_not_isFinite hfin))⟩

/-- Where the guard of R126 and R127 holds, both remainders are `+0`. -/
theorem modulo_of_guarded {cfg : Cfg} {y : Word} (h : flt (absWord y) cfg.epsDiv = true) (x : Word) :
    fmodWord cfg x y = posZero ∧ modWord cfg x y = posZero := ⟨if_pos h, if_pos h⟩

/-- R126, R127: a NaN divisor passes the guard, and the last subtraction gives `QNAN`. -/
theorem modulo_of_nan {y : Word} (h : isNaN y = true) (cfg : Cfg) (x : Word) :
    fmodWord cfg x y = qnan ∧ modWord cfg x y = qnan := by
  have hguard : flt (absWord y) cfg.epsDiv = false :=
    flt_nan_left (val_eq_nan_iff.2 ((isNaN_magnitude y).trans h))
  have hlast (q : Word) : fsub x (fmul y q) = qnan := by
    rw [fmul_nan_left (val_eq_nan_iff.2 h)]
    exact fadd_nan_right (by decide)
  simp [fmodWord, modWord, hguard, hlast]

/-- Settles O47: the magnitude of either zero is `+0`, which is below `EPS_DIV`. -/
theorem moduloGuards : Obligations.ModuloGuards := by
  intro s x y
  constructor
  · intro heps hy
    have hmag : absWord y = 0x00000000 := by rcases hy with rfl | rfl <;> rfl
    obtain ⟨hfmod, hmod⟩ := modulo_of_guarded (hmag ▸ heps) x
    exact ⟨answers_of_resultOf hfmod, answers_of_resultOf hmod⟩
  · intro hnan
    obtain ⟨hfmod, hmod⟩ := modulo_of_nan hnan s.cfg x
    exact ⟨answers_of_resultOf hfmod, answers_of_resultOf hmod⟩

/-- Settles O22: each command answers its rule's word; the guard is stated of the exponent field. -/
theorem roundingResults : Obligations.RoundingResults := fun _ _ _ =>
  ⟨answers_of_resultOf (if_congr big_iff rfl rfl), answers_of_resultOf (if_congr big_iff rfl rfl),
    answers_of_resultOf (if_congr big_iff rfl rfl), answers_of_resultOf rfl, answers_of_resultOf rfl,
    answers_of_resultOf rfl⟩

end Sys2Proof.Proofs
end

section
/-! The sentinels of SQRT, LOG and POW, and NaN through the root engine: every primitive hands a NaN on (R19, R140, R141, R160,
R163; O48). -/

namespace Sys2Proof.Proofs

open Sys2Proof.Machine Sys2Proof.Safety

@[simp] theorem val_qnan : val qnan = .nan := val_eq_nan_iff.2 isNaN_qnan

/-- R21 against `+0` from above, a zero included. -/
theorem fle_posZero_right_iff {w : Word} (h : isNaN w = false) : fle w posZero = true ↔ extVal w ≤ 0 := by
  rw [(comparisons_of_not_nan h isNaN_posZero).2.1, extVal_posZero]

/-- The first test of R141, R160 and R163 decides all three commands, whatever `CFG` and the exponent are. -/
theorem sentinels_of_fle {x : Word} (h : fle x posZero = true) (cfg : Cfg) (y : Word) :
    sqrtWord cfg x = posZero ∧ logWord cfg x = negInf ∧ powWord cfg x y = posZero :=
  ⟨if_pos h, if_pos h, if_pos h⟩

/-- R163: both zeros are equal to `+0`, so the exponent test holds of either. -/
theorem powWord_of_zero_exponent {x y : Word} (hx : fle x posZero = false) (hy : y = 0x00000000 ∨ y = 0x80000000)
    (cfg : Cfg) : powWord cfg x y = one := by
  have hzero : feq y posZero = true := by rcases hy with rfl | rfl <;> decide
  simp [powWord, hx, hzero]

/-- R140: a NaN operand reaches the last product through the Newton step. -/
theorem invSqrtWord_of_nan {x : Word} (h : isNaN x = true) (cfg : Cfg) : invSqrtWord cfg x = qnan := by
  have hstep (y0 : Word) : fsub oneAndHalf (fmul (fmul (fmul half x) y0) y0) = qnan := by
    rw [fmul_nan_right (val_eq_nan_iff.2 h), fmul_nan_left val_qnan, fmul_nan_left val_qnan]
    exact fadd_nan_right (by decide)
  rw [invSqrtWord, hstep, fmul_nan_right val_qnan]

/-- R141: a NaN operand passes the test for `x <= 0`, and the refinement gives `QNAN`. -/
theorem sqrtWord_of_nan {x : Word} (h : isNaN x = true) (cfg : Cfg) : sqrtWord cfg x = qnan := by
  have hval := val_eq_nan_iff.2 h
  simp [sqrtWord, fle_nan_left hval, fmul_nan_left hval, fadd_nan_left, fmul_nan_right]

/-- Settles O48: the value of the base decides the first test, and a NaN fails it. -/
theorem domainSentinels : Obligations.DomainSentinels := by
  intro s x y
  refine ⟨fun hnan hle => ?_, fun hnan hpos hy => ?_, fun hnan => ?_⟩
  · obtain ⟨hsqrt, hlog, hpow⟩ := sentinels_of_fle ((fle_posZero_right_iff hnan).2 hle) s.cfg y
    exact ⟨answers_of_resultOf hsqrt, answers_of_resultOf hlog, answers_of_resultOf hpow⟩
  · have hfle : fle x posZero = false := by
      rw [Bool.eq_false_iff, ne_eq, fle_posZero_right_iff hnan]
      exact hpos.not_ge
    exact answers_of_resultOf (powWord_of_zero_exponent hfle hy s.cfg)
  · exact ⟨answers_of_resultOf (sqrtWord_of_nan hnan s.cfg), answers_of_resultOf (invSqrtWord_of_nan hnan s.cfg)⟩

end Sys2Proof.Proofs
end

section
/-! HYPOT works on the two magnitudes, which MAX and MIN take in either order, and the result words of the root engine (R140 to
R142; O49, O23). -/

namespace Sys2Proof.Proofs

open Sys2Proof.Machine Sys2Proof.Safety

/-- No two magnitude patterns stand for one number of units. -/
theorem fields_eq_of_magUnits_eq {a b : Word} (h : magUnits a = magUnits b) :
    expField a = expField b ∧ mantissa a = mantissa b := by
  have hma := mantissa_lt a
  have hmb := mantissa_lt b
  rw [magUnits_eq_patUnits, magUnits_eq_patUnits] at h
  have hpat := patUnits_strictMono.injective h
  omega

/-- R21: the only different words that compare equal are the two zeros, so with one sign they are the same word. -/
theorem eq_of_feq {a b : Word} (hs : signBit a = signBit b) (h : feq a b = true) : a = b := by
  cases ha : val a with
  | nan => simp [feq_nan_left ha] at h
  | inf s =>
    cases hb : val b with
    | nan => simp [feq_nan_right hb] at h
    | inf t =>
      obtain rfl : s = t := by simpa [feq, ha, hb] using h
      rw [eq_infOf_of_val ha, eq_infOf_of_val hb]
    | fin t n => simp [feq, ha, hb] at h
  | fin s m =>
    cases hb : val b with
    | nan => simp [feq_nan_right hb] at h
    | inf t => simp [feq, ha, hb] at h
    | fin t n =>
      obtain ⟨-, hsa, rfl⟩ := val_eq_fin_iff.1 ha
      obtain ⟨-, hsb, rfl⟩ := val_eq_fin_iff.1 hb
      obtain rfl : s = t := by rw [← hsa, ← hsb, hs]
      have hmag : magUnits a = magUnits b := by
        cases s <;> simpa [feq_fin ha hb, signedUnits] using h
      obtain ⟨hexp, hman⟩ := fields_eq_of_magUnits_eq hmag
      exact word_eq_of_fields hs hexp hman

/-- R21 is a linear order on the words of one sign that are not NaN. -/
theorem eq_or_flt_eq_not {a b : Word} (hna : isNaN a = false) (hnb : isNaN b = false) (hs : signBit a = signBit b) :
    a = b ∨ flt b a = !flt a b := by
  obtain ⟨hab, -, heq⟩ := comparisons_of_not_nan hna hnb
  obtain ⟨hba, -, -⟩ := comparisons_of_not_nan hnb hna
  rcases lt_trichotomy (extVal a) (extVal b) with hlt | hval | hgt
  · have hnot : flt b a = false := Bool.eq_false_iff.2 (mt hba.1 hlt.asymm)
    exact .inr (by rw [hab.2 hlt, hnot, Bool.not_true])
  · exact .inl (eq_of_feq hs (heq.2 hval))
  · have hnot : flt a b = false := Bool.eq_false_iff.2 (mt hab.1 hgt.asymm)
    exact .inr (by rw [hba.2 hgt, hnot, Bool.not_false])

/-- R217, R218 on words of one sign: the order of the operands does not matter. -/
theorem max_min_comm {a b : Word} (hna : isNaN a = false) (hnb : isNaN b = false) (hs : signBit a = signBit b) :
    maxWord a b = maxWord b a ∧ minWord a b = minWord b a := by
  rcases eq_or_flt_eq_not hna hnb hs with rfl | hflt
  · exact ⟨rfl, rfl⟩
  · cases hab : flt a b <;> simp [maxWord, minWord, hflt, hab]

/-- R142 sees its operands through the larger and the smaller magnitude only. -/
theorem hypotWord_congr {x y x' y' : Word} (hmax : maxWord (absWord x) (absWord y) = maxWord (absWord x') (absWord y'))
    (hmin : minWord (absWord x) (absWord y) = minWord (absWord x') (absWord y')) (cfg : Cfg) :
    hypotWord cfg x y = hypotWord cfg x' y' := by
  rw [hypotWord, hmax, hmin, ← hypotWord]

theorem hypotWord_fneg (cfg : Cfg) (x y : Word) :
    hypotWord cfg (fneg x) y = hypotWord cfg x y ∧ hypotWord cfg x (fneg y) = hypotWord cfg x y := by
  have habs (w : Word) : absWord (fneg w) = absWord w := magnitude_fneg w
  exact ⟨hypotWord_congr (by rw [habs]) (by rw [habs]) cfg, hypotWord_congr (by rw [habs]) (by rw [habs]) cfg⟩

theorem hypotWord_comm {x y : Word} (hnx : isNaN x = false) (hny : isNaN y = false) (cfg : Cfg) :
    hypotWord cfg y x = hypotWord cfg x y := by
  obtain ⟨hmax, hmin⟩ := max_min_comm (a := magnitude y) (b := magnitude x) (by rwa [isNaN_magnitude])
    (by rwa [isNaN_magnitude]) (by rw [signBit_magnitude, signBit_magnitude])
  exact hypotWord_congr hmax hmin cfg

theorem magnitude_of_zero {w : Word} (hfin : isFinite w = true) (hzero : realVal w = 0) : magnitude w = posZero := by
  have hval := val_of_isFinite hfin
  rw [(realVal_eq_zero_iff w).1 hzero] at hval
  rw [eq_zeroOf_of_val hval]
  cases signBit w <;> rfl

theorem magnitude_of_isInf {w : Word} (h : isInf w = true) : magnitude w = posInf := by
  rcases isInf_iff_eq.1 h with rfl | rfl <;> rfl

/-- R142: a larger magnitude of zero ends the command. -/
theorem hypotWord_of_zeros {x y : Word} (hx : magnitude x = posZero) (hy : magnitude y = posZero) (cfg : Cfg) :
    hypotWord cfg x y = posZero := by
  have hmax : feq (maxWord posZero posZero) posZero = true := by decide
  simp [hypotWord, absWord, hx, hy, hmax]

/-- R142: the quotient of two infinities is `QNAN`, which runs through the square root. -/
theorem hypotWord_of_infs {x y : Word} (hx : magnitude x = posInf) (hy : magnitude y = posInf) (cfg : Cfg) :
    hypotWord cfg x y = qnan := by
  have hmax : maxWord posInf posInf = posInf := by decide
  have hmin : minWord posInf posInf = posInf := by decide
  have hguard : feq posInf posZero = false := by decide
  have hquot : fdiv posInf posInf = qnan := by decide
  simp [hypotWord, absWord, hx, hy, hmax, hmin, hguard, hquot, fmul_nan_right, fadd_nan_right, sqrtWord_of_nan]

/-- Settles O49: all four calls answer the word of the two magnitudes. -/
theorem hypotIsSymmetric : Obligations.HypotIsSymmetric := by
  intro s x y hnx hny
  obtain ⟨hleft, hright⟩ := hypotWord_fneg s.cfg x y
  refine ⟨⟨hypotWord s.cfg x y, answers_of_resultOf rfl, answers_of_resultOf hleft, answers_of_resultOf hright,
    answers_of_resultOf (hypotWord_comm hnx hny s.cfg)⟩, fun hfx hfy hzx hzy => ?_, fun hix hiy => ?_⟩
  · exact answers_of_resultOf (hypotWord_of_zeros (magnitude_of_zero hfx hzx) (magnitude_of_zero hfy hzy) s.cfg)
  · exact answers_of_resultOf (hypotWord_of_infs (magnitude_of_isInf hix) (magnitude_of_isInf hiy) s.cfg)

/-- Settles O23: each command answers its rule's word; the words the rules bind are the terms of the model's definitions. -/
theorem rootResults : Obligations.RootResults := fun _ _ _ =>
  ⟨⟨_, rfl, answers_of_resultOf rfl⟩, ⟨_, rfl, answers_of_resultOf rfl⟩, ⟨_, _, rfl, rfl, answers_of_resultOf rfl⟩⟩

end Sys2Proof.Proofs
end

section
/-! The log/exp engine: the exponent injection of EXP as arithmetic on the pattern, the results it can have, and the result words
of the family (R160 to R163; O50, O24, O25). -/

namespace Sys2Proof.Proofs

open Sys2Proof.Machine Sys2Proof.Safety

/-- A word built from its fields (R10) is the word of its magnitude pattern. -/
theorem ofFields_eq_packWord (s : Bool) {e m : ℕ} (he : e < 256) (hm : m < 2 ^ 23) :
    ofFields s e m = packWord s (e * 2 ^ 23 + m) := by
  apply BitVec.eq_of_toNat_eq
  rw [toNat_packWord s (by omega), ofFields, BitVec.toNat_append, BitVec.toNat_append,
    ← Nat.shiftLeft_add_eq_or_of_lt (by omega), ← Nat.shiftLeft_add_eq_or_of_lt (by omega)]
  cases s <;> simp [Nat.shiftLeft_eq] <;> omega

/-- R162: above the field the injection gives the infinity, below it the zero, of the sign of `p`; inside, `p`'s pattern with the
sum in the exponent field. -/
theorem injectExponent_eq (p : Word) (n : ℤ) :
    injectExponent p n =
      if 255 ≤ (expField p : ℤ) + n then infOf (signBit p)
      else if (expField p : ℤ) + n ≤ 0 then zeroOf (signBit p)
      else packWord (signBit p) (((expField p : ℤ) + n).toNat * 2 ^ 23 + mantissa p) := by
  have hinf (s : Bool) : ofFields s 0xFF 0 = infOf s := by cases s <;> rfl
  have hzero (s : Bool) : ofFields s 0x00 0 = zeroOf s := by cases s <;> rfl
  simp only [injectExponent]
  split_ifs
  · exact hinf _
  · exact hzero _
  · exact ofFields_eq_packWord _ (by omega) (mantissa_lt p)

/-- Packing counts modulo 2^32, so adding to the magnitude pattern is adding to the word (R13). -/
theorem packWord_eq_add_ofInt (s : Bool) {a b : ℕ} {i : ℤ} (h : (b : ℤ) = a + i) :
    packWord s b = packWord s a + BitVec.ofInt 32 i := by
  rw [packWord, packWord, ← BitVec.ofInt_natCast, ← BitVec.ofInt_natCast, ← BitVec.ofInt_add]
  congr 1
  push_cast
  rw [h, add_assoc]

/-- R162: inside the field the injected word is `p + (n << 23)`. -/
theorem injectExponent_of_inside {p : Word} {n : ℤ} (hlow : 1 ≤ (expField p : ℤ) + n) (hhigh : (expField p : ℤ) + n ≤ 254) :
    injectExponent p n = p + BitVec.ofInt 32 (n * 2 ^ 23) := by
  have hpattern : (((expField p : ℤ) + n).toNat * 2 ^ 23 + mantissa p : ℕ) =
      ((expField p * 2 ^ 23 + mantissa p : ℕ) : ℤ) + n * 2 ^ 23 := by omega
  rw [injectExponent_eq, if_neg (by omega), if_neg (by omega), packWord_eq_add_ofInt _ hpattern, packWord_fields]

/-- R162: the injection saturates before a subnormal. -/
theorem injectExponent_not_subnormal {p : Word} {n : ℤ} (h : expField (injectExponent p n) = 0) :
    mantissa (injectExponent p n) = 0 := by
  have hm := mantissa_lt p
  rw [injectExponent_eq] at h ⊢
  split_ifs at h ⊢
  · cases signBit p <;> rfl
  · cases signBit p <;> rfl
  · rw [expField_packWord _ (by omega)] at h
    omega

/-- R162: EXP ends in one of its three guards or in the exponent injection. -/
theorem expWord_cases (cfg : Cfg) (x : Word) :
    expWord cfg x = qnan ∨ expWord cfg x = posInf ∨ expWord cfg x = posZero ∨
      ∃ p n, expWord cfg x = injectExponent p n := by
  simp only [expWord]
  split_ifs
  · exact .inl rfl
  · exact .inr (.inl rfl)
  · exact .inr (.inr (.inl rfl))
  · exact .inr (.inr (.inr ⟨_, _, rfl⟩))

theorem expWord_not_subnormal {cfg : Cfg} {x : Word} (h : expField (expWord cfg x) = 0) : mantissa (expWord cfg x) = 0 := by
  rcases expWord_cases cfg x with hr | hr | hr | ⟨p, n, hr⟩ <;> rw [hr] at h ⊢
  · exact absurd h (by decide)
  · exact absurd h (by decide)
  · rfl
  · exact injectExponent_not_subnormal h

/-- Settles O50: the NaN guard, the results EXP can have, and the injection inside the field. -/
theorem expInjection : Obligations.ExpInjection :=
  ⟨fun _ _ => ⟨fun hnan => answers_of_resultOf (if_pos hnan), _, answers_of_resultOf rfl, expWord_not_subnormal⟩,
    fun _ _ => injectExponent_of_inside⟩

/-- Settles O24: each command answers its rule's word; LOG2 and POW are built from the words LOG and EXP answer. -/
theorem logPowResults : Obligations.LogPowResults := fun s x y =>
  ⟨⟨_, _, rfl, rfl, answers_of_resultOf rfl⟩, logWord s.cfg x, answers_of_resultOf rfl, answers_of_resultOf rfl,
    expWord s.cfg (fmul y (logWord s.cfg x)), answers_of_resultOf rfl, answers_of_resultOf rfl⟩

/-- Settles O25: EXP answers its rule's word; the NaN guard and the injection are stated of the fields. -/
theorem expResult : Obligations.ExpResult := fun s x =>
  ⟨_, roundWord (fmul x s.cfg.invLn2), _, _, rfl, answers_of_resultOf rfl, rfl, rfl, answers_of_resultOf
    (if_congr isNaN_iff rfl (if_congr Iff.rfl rfl (if_congr Iff.rfl rfl (injectExponent_eq _ _))))⟩

end Sys2Proof.Proofs
end

section
/-! SIN, COS and TAN: a non-finite operand leaves no number after the reduction, whatever `TAU` is, and the result words of the
three commands (R180 to R182; O51, O26). -/

namespace Sys2Proof.Proofs

open Sys2Proof.Machine Sys2Proof.Safety

theorem fsub_qnan_right (a : Word) : fsub a qnan = qnan := fadd_nan_right (val_eq_nan_iff.2 (by simp))

/-- R23: Horner's rule ends in a product with the operand. -/
theorem oddpoly_of_nan {v : Word} (h : isNaN v = true) (k : OddCoeffs) : oddpoly k v = qnan :=
  fmul_nan_left (val_eq_nan_iff.2 h)

/-- R180: a NaN is in neither half-plane of the fold. -/
theorem foldHalfPi_of_nan {r : Word} (h : isNaN r = true) (cfg : Cfg) : foldHalfPi cfg r = r := by
  have hval := val_eq_nan_iff.2 h
  simp [foldHalfPi, flt_nan_left hval, flt_nan_right hval]

@[simp] theorem isFinite_qnan : isFinite qnan = false := by decide

@[simp] theorem isFinite_infOf (s : Bool) : isFinite (infOf s) = false := by cases s <;> decide

/-- The classes of R11 that are not finite. -/
theorem val_of_not_isFinite {w : Word} (h : isFinite w = false) : val w = .nan ∨ ∃ s, val w = .inf s := by
  cases hw : val w with
  | nan => exact .inl rfl
  | inf s => exact .inr ⟨s, rfl⟩
  | fin s m =>
    obtain ⟨-, -, hfin, -⟩ := classes_of_val_fin hw
    simp [hfin] at h

/-- R18, R19: a sum whose first operand is not finite is not finite. -/
theorem not_isFinite_fadd {a : Word} (h : isFinite a = false) (b : Word) : isFinite (fadd a b) = false := by
  obtain ha | ⟨s, ha⟩ := val_of_not_isFinite h
  · rw [fadd_nan_left ha, isFinite_qnan]
  · cases hb : val b with
    | nan => rw [fadd_nan_right hb, isFinite_qnan]
    | fin t n => rw [fadd_inf_fin ha hb, isFinite_infOf]
    | inf t =>
      rw [fadd_inf_inf ha hb]
      split
      · exact isFinite_infOf s
      · exact isFinite_qnan

/-- R180: stage 1 of `SIN` leaves no number of an infinity. The quotient with a finite `TAU` is an infinity, which rounding keeps;
times `TAU` it is the operand again, or `QNAN` where `TAU` is zero. -/
theorem reduction_of_inf {x : Word} {s : Bool} (hx : val x = .inf s) (tau : Word) :
    fsub x (fmul (roundWord (fdiv x tau)) tau) = qnan := by
  have hround {w : Word} (h : isFinite w = false) : roundWord w = w := roundWord_of_big (big_of_not_isFinite h)
  cases ht : val tau with
  | nan => rw [fmul_nan_right ht, fsub_qnan_right]
  | inf t => rw [fdiv_inf_inf hx ht, hround isFinite_qnan, fmul_nan_left val_qnan, fsub_qnan_right]
  | fin t n =>
    rw [fdiv_inf_fin hx ht, hround (isFinite_infOf _), fmul_inf_fin (val_infOf _) ht]
    split
    · exact fsub_qnan_right x
    · obtain ⟨-, -, hfin, -⟩ := classes_of_val_inf hx
      rw [Bool.xor_assoc, Bool.xor_self, Bool.xor_false, ← eq_infOf_of_val hx]
      exact fsub_self_of_not_isFinite hfin

theorem sinWord_of_not_isFinite {x : Word} (h : isFinite x = false) (cfg : Cfg) : sinWord cfg x = qnan := by
  have hred : fsub x (fmul (roundWord (fdiv x cfg.tau)) cfg.tau) = qnan := by
    obtain hx | ⟨s, hx⟩ := val_of_not_isFinite h
    · exact fadd_nan_left hx
    · exact reduction_of_inf hx cfg.tau
  rw [sinWord, hred, foldHalfPi_of_nan isNaN_qnan, oddpoly_of_nan isNaN_qnan]

theorem cosWord_of_not_isFinite {x : Word} (h : isFinite x = false) (cfg : Cfg) : cosWord cfg x = qnan :=
  sinWord_of_not_isFinite (not_isFinite_fadd h cfg.halfPi) cfg

/-- R182: a NaN cosine passes the guard, and the quotient is `QNAN`. -/
theorem tanWord_of_not_isFinite {x : Word} (h : isFinite x = false) (cfg : Cfg) : tanWord cfg x = qnan := by
  have hguard : flt (absWord qnan) cfg.epsTan = false := flt_nan_left (by decide)
  simp [tanWord, sinWord_of_not_isFinite h, cosWord_of_not_isFinite h, hguard, fdiv_nan_left]

/-- Settles O51: COS is SIN of a sum that is not finite either, and TAN is built from both. -/
theorem trigOfNonFinite : Obligations.TrigOfNonFinite := fun s _ h =>
  ⟨answers_of_resultOf (sinWord_of_not_isFinite h s.cfg), answers_of_resultOf (cosWord_of_not_isFinite h s.cfg),
    answers_of_resultOf (tanWord_of_not_isFinite h s.cfg)⟩

/-- Settles O26: each command answers its rule's word; COS and TAN are built from the words SIN answers. -/
theorem sinCosTanResults : Obligations.SinCosTanResults := fun _ _ =>
  ⟨⟨_, _, answers_of_resultOf rfl, rfl, answers_of_resultOf rfl⟩, _, _, answers_of_resultOf rfl, answers_of_resultOf rfl,
    answers_of_resultOf rfl, answers_of_resultOf rfl⟩

end Sys2Proof.Proofs
end

section
/-! The inverse functions: ATAN sees its operand through the magnitude and the sign word, ATAN2 ends on the axis, ASIN and ACOS
clamp, and the result words of the six commands (R183 to R188; O52, O53, O54, O27). -/

namespace Sys2Proof.Proofs

open Sys2Proof.Machine Sys2Proof.Safety

theorem signWord_fneg (w : Word) : signWord (fneg w) = fneg (signWord w) := by
  ext i hi
  simp [signWord, fneg, Bool.and_xor_distrib_right]

/-- R183: negating the operand keeps the magnitude and flips the sign word, which comes in last, by exclusive or. -/
theorem atanWord_fneg (cfg : Cfg) (w : Word) : atanWord cfg (fneg w) = fneg (atanWord cfg w) := by
  have habs : absWord (fneg w) = absWord w := magnitude_fneg w
  rw [atanWord, habs, signWord_fneg, fneg, ← BitVec.xor_assoc]
  rfl

/-- Settles O52: both calls answer ATAN's word, whose sign alone differs. -/
theorem atanIsOdd : Obligations.AtanIsOdd := fun s w =>
  ⟨atanWord s.cfg w, answers_of_resultOf rfl, answers_of_resultOf (atanWord_fneg s.cfg w)⟩

/-- R184: either zero is equal to `+0`, so the first test leaves only the sign of `y` to decide. -/
theorem atan2Word_of_zero {x : Word} (hx : x = 0x00000000 ∨ x = 0x80000000) (cfg : Cfg) (y : Word) :
    atan2Word cfg y x =
      if flt posZero y then cfg.halfPi else if flt y posZero then fneg cfg.halfPi else posZero := by
  have hzero : feq x posZero = true := by rcases hx with rfl | rfl <;> decide
  rw [atan2Word, if_pos hzero]

/-- Settles O53: comparing `y` with `+0` is comparing its value with 0, and a NaN fails both comparisons. -/
theorem atan2OnTheAxis : Obligations.Atan2OnTheAxis := by
  intro s y x hx
  have haxis := atan2Word_of_zero hx s.cfg y
  have hvalue (h : isNaN y = false) := haxis.trans
    (if_congr (flt_posZero_left_iff h) rfl (if_congr (flt_posZero_right_iff h) rfl rfl))
  refine ⟨fun h hpos => answers_of_resultOf ((hvalue h).trans (if_pos hpos)),
    fun h hneg => answers_of_resultOf ((hvalue h).trans ((if_neg hneg.asymm).trans (if_pos hneg))),
    fun h => answers_of_resultOf ?_⟩
  cases hnan : isNaN y with
  | true =>
    have hval := val_eq_nan_iff.2 hnan
    refine haxis.trans ?_
    rw [flt_nan_left hval, flt_nan_right hval]
    rfl
  | false =>
    have hv : extVal y = 0 := h.resolve_left (by simp [hnan])
    exact (hvalue hnan).trans ((if_neg hv.le.not_gt).trans (if_neg hv.ge.not_gt))

/-- R11: a word whose sign bit is set stands for no positive value. -/
theorem extVal_nonpos {w : Word} (h : signBit w = true) : extVal w ≤ 0 := by
  cases hi : isInf w with
  | true => simp [extVal, hi, h]
  | false =>
    have hreal : realVal w ≤ 0 := by
      rw [realVal_eq, h, signFactor, if_pos rfl, neg_one_mul, neg_mul]
      exact neg_nonpos.2 (mul_nonneg (Nat.cast_nonneg _) leastUnit_pos.le)
    simpa [extVal, hi] using hreal

/-- R11: only the value 0 has more than one word. -/
theorem eq_of_extVal_eq {a b : Word} (hna : isNaN a = false) (hnb : isNaN b = false) (h : extVal a = extVal b)
    (hne : extVal b ≠ 0) : a = b := by
  refine eq_of_feq ?_ ((comparisons_of_not_nan hna hnb).2.2.2 h)
  cases hsa : signBit a <;> cases hsb : signBit b
  · rfl
  · exact absurd (le_antisymm (extVal_nonpos hsb) (h ▸ extVal_nonneg hsa)) hne
  · exact absurd (le_antisymm (h ▸ extVal_nonpos hsa) (extVal_nonneg hsb)) hne
  · rfl

theorem hasValue_minusOne : HasValue minusOne (-1) := by unfold HasValue; decide +kernel

/-- R216: a NaN passes both bounds. -/
theorem clampWord_of_nan {x : Word} (h : isNaN x = true) (lo hi : Word) : clampWord x lo hi = x := by
  have hval := val_eq_nan_iff.2 h
  simp [clampWord, flt_nan_left hval, flt_nan_right hval]

section Bounds

variable {x lo hi : Word} {l u : ℚ} (hlo : HasValue lo l) (hhi : HasValue hi u) (hlu : l < u) (hnx : isNaN x = false)
include hlo hhi hlu hnx

/-- R216 at and above an upper bound other than zero, whose word is then the only one with its value. -/
theorem clampWord_of_upper_le (hu : u ≠ 0) (h : extVal hi ≤ extVal x) : clampWord x lo hi = hi := by
  obtain ⟨hnl, hvl⟩ := extVal_of_hasValue hlo
  obtain ⟨hnh, hvh⟩ := extVal_of_hasValue hhi
  have hbounds : extVal lo < extVal hi := by rw [hvl, hvh]; exact_mod_cast hlu
  have hlow : ¬flt x lo = true := mt (comparisons_of_not_nan hnx hnl).1.1 (hbounds.trans_le h).asymm
  rw [clampWord, if_neg hlow]
  split
  next => rfl
  next hhigh =>
    have hle : extVal x ≤ extVal hi := not_lt.1 (mt (comparisons_of_not_nan hnh hnx).1.2 hhigh)
    exact eq_of_extVal_eq hnx hnh (le_antisymm hle h) (by rw [hvh]; exact_mod_cast hu)

/-- R216 at and below a lower bound other than zero, whose word is then the only one with its value. -/
theorem clampWord_of_le_lower (hl : l ≠ 0) (h : extVal x ≤ extVal lo) : clampWord x lo hi = lo := by
  obtain ⟨hnl, hvl⟩ := extVal_of_hasValue hlo
  obtain ⟨hnh, hvh⟩ := extVal_of_hasValue hhi
  have hbounds : extVal lo < extVal hi := by rw [hvl, hvh]; exact_mod_cast hlu
  have hhigh : ¬flt hi x = true := mt (comparisons_of_not_nan hnh hnx).1.1 (h.trans_lt hbounds).asymm
  rw [clampWord, if_neg hhigh]
  split
  next => rfl
  next hlow =>
    have hge : extVal lo ≤ extVal x := not_lt.1 (mt (comparisons_of_not_nan hnx hnl).1.2 hlow)
    exact eq_of_extVal_eq hnx hnl (le_antisymm h hge) (by rw [hvl]; exact_mod_cast hl)

end Bounds

/-- R185: ASIN sees its operand through the clamped one only. -/
theorem asinWord_congr {x y : Word} (h : clampWord x minusOne one = clampWord y minusOne one) (cfg : Cfg) :
    asinWord cfg x = asinWord cfg y := by
  rw [asinWord, h, ← asinWord]

theorem asinWord_of_one_le {x : Word} (hnx : isNaN x = false) (h : extVal one ≤ extVal x) (cfg : Cfg) :
    asinWord cfg x = asinWord cfg one := by
  have hone : clampWord one minusOne one = one := by decide
  refine asinWord_congr (Eq.trans ?_ hone.symm) cfg
  exact clampWord_of_upper_le hasValue_minusOne hasValue_one (by norm_num) hnx one_ne_zero h

theorem asinWord_of_le_minusOne {x : Word} (hnx : isNaN x = false) (h : extVal x ≤ extVal minusOne) (cfg : Cfg) :
    asinWord cfg x = asinWord cfg minusOne := by
  have hminusOne : clampWord minusOne minusOne one = minusOne := by decide
  refine asinWord_congr (Eq.trans ?_ hminusOne.symm) cfg
  exact clampWord_of_le_lower hasValue_minusOne hasValue_one (by norm_num) hnx (by norm_num) h

/-- R183: `QNAN` is not above 1 and its sign bit is clear, so the polynomial's word is the result. -/
theorem atanWord_qnan (cfg : Cfg) : atanWord cfg qnan = qnan := by
  have habove : flt one (absWord qnan) = false := flt_nan_right (by decide)
  have hnan : isNaN (absWord qnan) = true := by decide
  have hsign : qnan ^^^ signWord qnan = qnan := by decide
  simp [atanWord, habove, oddpoly_of_nan hnan, hsign]

/-- R185: a NaN passes the clamp, and every operation after it gives `QNAN`. -/
theorem asinWord_of_nan {x : Word} (h : isNaN x = true) (cfg : Cfg) : asinWord cfg x = qnan := by
  simp only [asinWord, clampWord_of_nan h, fdiv_nan_left (val_eq_nan_iff.2 h), atanWord_qnan]

/-- R186: ACOS is built from the word ASIN answers, so one word for two operands serves both commands. -/
theorem answers_of_asinWord_eq {s : State} {x y : Word} (h : asinWord s.cfg x = asinWord s.cfg y) :
    (∃ r q, Answers (.asin x) s r ∧ Answers (.asin y) s r ∧ Answers (.acos x) s q ∧ Answers (.acos y) s q) ∧
      (s.cfg = cfgRef → Answers (.asin x) s (asinWord cfgRef y) ∧ Answers (.acos x) s (acosWord cfgRef y)) := by
  have hacos : acosWord s.cfg x = acosWord s.cfg y := congrArg (fsub s.cfg.halfPi) h
  refine ⟨⟨_, _, answers_of_resultOf h, answers_of_resultOf rfl, answers_of_resultOf hacos, answers_of_resultOf rfl⟩,
    fun hcfg => ?_⟩
  rw [← hcfg]
  exact ⟨answers_of_resultOf h, answers_of_resultOf hacos⟩

/-- R185, R186 under `CFG_REF`: at 1.0 and -1.0 the quotient is an infinity, and the angles are the constants' own words. -/
theorem asin_acos_cfgRef_bounds :
    (asinWord cfgRef one = 0x3FC90FDB ∧ acosWord cfgRef one = 0x00000000) ∧
      asinWord cfgRef minusOne = 0xBFC90FDB ∧ acosWord cfgRef minusOne = 0x40490FDB := by decide +kernel

/-- Settles O54: beyond a bound ASIN's word is the bound's own, and ACOS is built from it. -/
theorem asinClampsItsOperand : Obligations.AsinClampsItsOperand := by
  intro s x
  obtain ⟨⟨hasinOne, hacosOne⟩, hasinMinusOne, hacosMinusOne⟩ := asin_acos_cfgRef_bounds
  refine ⟨fun hnan h => ?_, fun hnan h => ?_, fun hnan => ?_⟩
  · have hone := answers_of_asinWord_eq (asinWord_of_one_le hnan h s.cfg)
    rwa [hasinOne, hacosOne] at hone
  · have hminusOne := answers_of_asinWord_eq (asinWord_of_le_minusOne hnan h s.cfg)
    rwa [hasinMinusOne, hacosMinusOne] at hminusOne
  · have hasin := asinWord_of_nan hnan s.cfg
    have hacos : acosWord s.cfg x = qnan := by rw [acosWord, hasin, fsub_qnan_right]
    exact ⟨answers_of_resultOf hasin, answers_of_resultOf hacos⟩

/-- Settles O27: each command answers its rule's word; ATAN2 and ASIN are built from the words ATAN, CLAMP and SQRT answer. -/
theorem inverseTrigResults : Obligations.InverseTrigResults := fun s x _ =>
  ⟨⟨_, _, rfl, rfl, answers_of_resultOf rfl⟩, ⟨_, answers_of_resultOf rfl, answers_of_resultOf rfl⟩,
    ⟨_, _, asinWord s.cfg x, answers_of_resultOf rfl, answers_of_resultOf rfl, answers_of_resultOf rfl, answers_of_resultOf rfl,
      answers_of_resultOf rfl⟩,
    answers_of_resultOf rfl, answers_of_resultOf rfl⟩

end Sys2Proof.Proofs
end

section
/-! STEP, MIN, MAX and CLAMP pick one of their words by comparisons, which order the words that are not NaN (R21, R213, R216 to R218;
O57, O58, O59). -/

namespace Sys2Proof.Proofs

open Sys2Proof.Machine Sys2Proof.Safety

theorem fle_refl {a : Word} (h : isNaN a = false) : fle a a = true := by
  obtain ⟨-, hle, -⟩ := comparisons_of_not_nan h h
  exact hle.2 le_rfl

theorem fle_of_flt {a b : Word} (h : flt a b = true) : fle a b = true := by
  obtain ⟨hlt, hle, -⟩ := comparisonsCompareValues a b
  obtain ⟨hna, hnb, hval⟩ := hlt.1 h
  exact hle.2 ⟨hna, hnb, hval.le⟩

theorem fle_of_not_flt {a b : Word} (hna : isNaN a = false) (hnb : isNaN b = false) (h : ¬flt a b = true) :
    fle b a = true := by
  obtain ⟨hlt, -⟩ := comparisons_of_not_nan hna hnb
  obtain ⟨-, hle, -⟩ := comparisons_of_not_nan hnb hna
  exact hle.2 (not_lt.1 (mt hlt.2 h))

/-- R21: the two orders exclude each other, NaN included. -/
theorem not_flt_of_fle {a b : Word} (h : fle a b = true) : ¬flt b a = true := by
  obtain ⟨-, hle, -⟩ := comparisonsCompareValues a b
  obtain ⟨hlt, -⟩ := comparisonsCompareValues b a
  obtain ⟨-, -, hval⟩ := hle.1 h
  intro hflt
  obtain ⟨-, -, hval'⟩ := hlt.1 hflt
  exact hval.not_gt hval'

/-- R21: neither word is less than the other where one is NaN or they are equal. -/
theorem not_flt_of_nan_or_feq {a b : Word} (h : isNaN a = true ∨ isNaN b = true ∨ feq a b = true) :
    ¬flt a b = true ∧ ¬flt b a = true := by
  obtain ⟨hab, -, heq⟩ := comparisonsCompareValues a b
  obtain ⟨hba, -⟩ := comparisonsCompareValues b a
  rw [hab, hba]
  rcases h with hna | hnb | hfeq
  · simp [hna]
  · simp [hnb]
  · obtain ⟨-, -, hval⟩ := heq.1 hfeq
    simp [hval]

/-- R213 where the comparison means nothing: the answer is 1.0. -/
theorem stepWord_of_nan {e x : Word} (h : isNaN e = true ∨ isNaN x = true) : stepWord e x = one := by
  obtain ⟨hflt, -⟩ := not_flt_of_nan_or_feq (a := x) (b := e) (h.elim (fun he => .inr (.inl he)) .inl)
  exact if_neg hflt

/-- R213 for the other words, by their values. -/
theorem stepWord_of_not_nan {e x : Word} (hne : isNaN e = false) (hnx : isNaN x = false) :
    stepWord e x = if extVal x < extVal e then posZero else one := by
  obtain ⟨hlt, -⟩ := comparisons_of_not_nan hnx hne
  exact if_congr hlt rfl rfl

/-- Settles O59: the one comparison of the rule is that of the values, and a NaN fails it. -/
theorem stepIsThreshold : Obligations.StepIsThreshold := fun _ _ _ =>
  ⟨fun hnan => answers_of_resultOf (stepWord_of_nan hnan),
    fun hne hnx hbelow => answers_of_resultOf ((stepWord_of_not_nan hne hnx).trans (if_pos hbelow)),
    fun hne hnx habove => answers_of_resultOf ((stepWord_of_not_nan hne hnx).trans (if_neg habove.not_gt))⟩

theorem minWord_is_lower_bound {a b : Word} (hna : isNaN a = false) (hnb : isNaN b = false) :
    fle (minWord a b) a = true ∧ fle (minWord a b) b = true := by
  unfold minWord
  split
  next hlt => exact ⟨fle_refl hna, fle_of_flt hlt⟩
  next hnot => exact ⟨fle_of_not_flt hna hnb hnot, fle_refl hnb⟩

theorem maxWord_is_upper_bound {a b : Word} (hna : isNaN a = false) (hnb : isNaN b = false) :
    fle a (maxWord a b) = true ∧ fle b (maxWord a b) = true := by
  unfold maxWord
  split
  next hlt => exact ⟨fle_refl hna, fle_of_flt hlt⟩
  next hnot => exact ⟨fle_of_not_flt hnb hna hnot, fle_refl hnb⟩

/-- Settles O58: each command makes one comparison, which fails on NaN and on equality. -/
theorem minMaxPickAnOperand : Obligations.MinMaxPickAnOperand := by
  intro s a b
  refine ⟨minWord a b, maxWord a b, answers_of_resultOf rfl, answers_of_resultOf rfl, ite_eq_or_eq _ _ _, ite_eq_or_eq _ _ _,
    fun hna hnb => ?_, fun h => ?_⟩
  · obtain ⟨hmina, hminb⟩ := minWord_is_lower_bound hna hnb
    exact ⟨hmina, hminb, maxWord_is_upper_bound hna hnb⟩
  · obtain ⟨hab, hba⟩ := not_flt_of_nan_or_feq h
    exact ⟨if_neg hab, if_neg hba⟩

/-- R216: the lower bound below itself, else the upper bound above itself, else the operand. -/
theorem clampWord_cases (x lo hi : Word) :
    (flt x lo = true ∧ clampWord x lo hi = lo) ∨ (flt hi x = true ∧ clampWord x lo hi = hi) ∨
      (¬flt x lo = true ∧ ¬flt hi x = true ∧ clampWord x lo hi = x) := by
  unfold clampWord
  split
  next hlow => exact .inl ⟨hlow, rfl⟩
  next hlow =>
    split
    next hhigh => exact .inr (.inl ⟨hhigh, rfl⟩)
    next hhigh => exact .inr (.inr ⟨hlow, hhigh, rfl⟩)

/-- R216: a word between the bounds is left as it is. -/
theorem clampWord_of_between {x lo hi : Word} (hlow : fle lo x = true) (hhigh : fle x hi = true) : clampWord x lo hi = x :=
  (if_neg (not_flt_of_fle hlow)).trans (if_neg (not_flt_of_fle hhigh))

theorem clampWord_between {x lo hi : Word} (hbounds : fle lo hi = true) (hnx : isNaN x = false) :
    fle lo (clampWord x lo hi) = true ∧ fle (clampWord x lo hi) hi = true := by
  obtain ⟨-, hle, -⟩ := comparisonsCompareValues lo hi
  obtain ⟨hnl, hnh, -⟩ := hle.1 hbounds
  obtain ⟨-, hr⟩ | ⟨-, hr⟩ | ⟨hlow, hhigh, hr⟩ := clampWord_cases x lo hi <;> rw [hr]
  · exact ⟨fle_refl hnl, hbounds⟩
  · exact ⟨hbounds, fle_refl hnh⟩
  · exact ⟨fle_of_not_flt hnx hnl hlow, fle_of_not_flt hnh hnx hhigh⟩

/-- R216: a NaN is clamped to itself, and any other word to one between the bounds. -/
theorem clampWord_idempotent {lo hi : Word} (hbounds : fle lo hi = true) (x : Word) :
    clampWord (clampWord x lo hi) lo hi = clampWord x lo hi := by
  cases hnx : isNaN x with
  | true => rw [clampWord_of_nan hnx, clampWord_of_nan hnx]
  | false =>
    obtain ⟨hlow, hhigh⟩ := clampWord_between hbounds hnx
    exact clampWord_of_between hlow hhigh

/-- Settles O57: the three words CLAMP can answer, and the bounds they keep. -/
theorem clampIsIdempotent : Obligations.ClampIsIdempotent := by
  intro s x lo hi
  refine ⟨clampWord x lo hi, answers_of_resultOf rfl, ?_, fun hbounds =>
    ⟨answers_of_resultOf (clampWord_idempotent hbounds x), clampWord_between hbounds⟩⟩
  obtain ⟨-, hr⟩ | ⟨-, hr⟩ | ⟨-, -, hr⟩ := clampWord_cases x lo hi
  · exact .inr (.inl hr)
  · exact .inr (.inr hr)
  · exact .inl hr

end Sys2Proof.Proofs
end

section
/-! LERP at its ends and INVLERP on an empty span: adding zero, multiplying by 1 and by 0 are exact, and a difference is rounded to
zero only where it is zero (R17, R18, R210, R211; O55, O56). -/

namespace Sys2Proof.Proofs

open Sys2Proof.Machine Sys2Proof.Safety

section Exact

variable {a b v : Word} {x y : ℚ}

/-- A sum that is a word's own value is not rounded. -/
theorem hasValue_fadd_of_exact (ha : HasValue a x) (hb : HasValue b y) (hv : HasValue v (x + y)) :
    HasValue (fadd a b) (x + y) := by
  obtain ⟨hfa, rfl⟩ := ha
  obtain ⟨hfb, rfl⟩ := hb
  exact hasValue_of_roundsTo hv (roundsTo_fadd hfa hfb)

/-- A product that is a word's own value is not rounded. -/
theorem hasValue_fmul_of_exact (ha : HasValue a x) (hb : HasValue b y) (hv : HasValue v (x * y)) :
    HasValue (fmul a b) (x * y) := by
  obtain ⟨hfa, rfl⟩ := ha
  obtain ⟨hfb, rfl⟩ := hb
  exact hasValue_of_roundsTo hv (productIsCorrectlyRounded a b hfa hfb)

theorem hasValue_one_fmul (ha : HasValue a x) : HasValue (fmul one a) x := by
  simpa using hasValue_fmul_of_exact hasValue_one ha (by rwa [one_mul])

theorem hasValue_posZero_fmul (ha : HasValue a x) : HasValue (fmul posZero a) 0 := by
  simpa using hasValue_fmul_of_exact hasValue_posZero ha (by simpa using hasValue_posZero)

theorem hasValue_fadd_of_zero (ha : HasValue a x) (hb : HasValue b 0) : HasValue (fadd a b) x := by
  simpa using hasValue_fadd_of_exact ha hb (by rwa [add_zero])

/-- R210 at `t = +0`: the weights are 1 and 0. -/
theorem hasValue_lerpWord_posZero (ha : HasValue a x) (hb : HasValue b y) : HasValue (lerpWord a b posZero) x := by
  have hweight : fsub one posZero = one := by decide
  rw [lerpWord, hweight]
  exact hasValue_fadd_of_zero (hasValue_one_fmul ha) (hasValue_posZero_fmul hb)

/-- R210 at `t = 1.0`: the weights are 0 and 1. -/
theorem hasValue_lerpWord_one (ha : HasValue a x) (hb : HasValue b y) : HasValue (lerpWord a b one) y := by
  have hweight : fsub one one = posZero := by decide
  rw [lerpWord, hweight, fadd_comm]
  exact hasValue_fadd_of_zero (hasValue_one_fmul hb) (hasValue_posZero_fmul ha)

end Exact

/-- Settles O55: at either end one product is the end point's value and the other is zero. -/
theorem lerpReproducesEndPoints : Obligations.LerpReproducesEndPoints := fun _ _ _ ha hb =>
  ⟨⟨_, answers_of_resultOf rfl, hasValue_lerpWord_posZero (hasValue_realVal ha) (hasValue_realVal hb)⟩,
    ⟨_, answers_of_resultOf rfl, hasValue_lerpWord_one (hasValue_realVal ha) (hasValue_realVal hb)⟩⟩

/-- R17: whole units are spaced as the subnormals are, so a number of them other than 0 is not rounded to zero. -/
theorem roundMag_one_ne_zero {n : ℕ} (hn : n ≠ 0) : roundMag n 1 ≠ 0 := by
  obtain ⟨b, -, hlt, hround⟩ := roundMag_bracket n one_pos
  have hb : b ≠ 0 := by
    rintro rfl
    have hunit : patUnits (0 + 1) = 1 := by decide
    omega
  rw [hround, ← Nat.pos_iff_ne_zero]
  refine lt_min ?_ (by omega)
  split <;> omega

/-- R18: a number of units other than 0, rounded, over `+0` is the infinity of its sign. -/
theorem fdiv_roundTo_posZero (s : Bool) {n : ℕ} (hn : n ≠ 0) : fdiv (roundTo s n 1) posZero = infOf s := by
  have hzero : val posZero = .fin false 0 := val_zeroOf false
  have hval := val_roundTo s n 1
  split at hval
  next => rw [fdiv_inf_fin hval hzero, Bool.xor_false]
  next =>
    have hunits : patUnits (roundMag n 1) ≠ 0 :=
      (patUnits_strictMono (Nat.pos_of_ne_zero (roundMag_one_ne_zero hn))).ne_bot
    rw [fdiv_fin_zero hval hzero, if_neg hunits, Bool.xor_false]

/-- A sum of finite words that is not zero, as a whole number of units rounded once. -/
theorem exists_fadd_eq_roundTo {a b : Word} (ha : isFinite a = true) (hb : isFinite b = true)
    (h : realVal a + realVal b ≠ 0) :
    ∃ n ≠ 0, fadd a b = roundTo (decide (realVal a + realVal b < 0)) n 1 := by
  have hva := val_of_isFinite ha
  have hvb := val_of_isFinite hb
  obtain ⟨k, hk⟩ : ∃ k, k = signedUnits (signBit a) (magUnits a) + signedUnits (signBit b) (magUnits b) := ⟨_, rfl⟩
  have hsum : realVal a + realVal b = k * leastUnit := by
    rw [realVal_of_val hva, realVal_of_val hvb, hk]; push_cast; ring
  have hk0 : k ≠ 0 := by
    rintro rfl
    simp [hsum] at h
  have hneg : k < 0 ↔ realVal a + realVal b < 0 := by
    rw [hsum, ← zero_mul leastUnit, mul_lt_mul_iff_left₀ leastUnit_pos, Int.cast_lt_zero]
  refine ⟨k.natAbs, Int.natAbs_ne_zero.2 hk0, ?_⟩
  rw [fadd_fin hva hvb, ← hk, if_neg hk0, decide_eq_decide.2 hneg]

/-- R211 on an empty span: the sign of the difference decides the infinity. -/
theorem invLerpWord_self {a v : Word} (ha : isFinite a = true) (hv : isFinite v = true) :
    invLerpWord a a v =
      if realVal v = realVal a then qnan else infOf (decide (realVal v < realVal a)) := by
  have hspan : fsub a a = posZero := fsub_self_of_isFinite ha
  have hdiff : realVal v + realVal (fneg a) = realVal v - realVal a := by rw [realVal_fneg, sub_eq_add_neg]
  have hfin : isFinite (fneg a) = true := (isFinite_fneg a).trans ha
  rw [invLerpWord, hspan, fsub]
  split
  next heq =>
    rw [fadd_of_zero_sum hv hfin (by rw [hdiff, heq, sub_self])]
    split <;> decide
  next hne =>
    obtain ⟨n, hn, hword⟩ := exists_fadd_eq_roundTo hv hfin (by rwa [hdiff, sub_ne_zero])
    rw [hword, fdiv_roundTo_posZero _ hn, hdiff, decide_eq_decide.2 sub_neg]

/-- Settles O56: the quotient of the difference by `+0`. -/
theorem invLerpOfEqualEndPoints : Obligations.InvLerpOfEqualEndPoints := by
  intro s a v ha hv
  have hword := invLerpWord_self ha hv
  refine ⟨fun heq => answers_of_resultOf (hword.trans (if_pos heq)), fun habove => answers_of_resultOf (hword.trans ?_),
    fun hbelow => answers_of_resultOf (hword.trans ?_)⟩
  · rw [if_neg habove.ne', decide_eq_false habove.asymm]
    rfl
  · rw [if_neg hbelow.ne, decide_eq_true hbelow]
    rfl

end Sys2Proof.Proofs
end

section
/-! The result words of the interpolation family, and its worked results (R210 to R219; O28, O29). -/

namespace Sys2Proof.Proofs

open Sys2Proof.Machine Sys2Proof.Safety

/-- Settles O28: each command answers its rule's word; REMAP and the two smooth steps are built from the words INVLERP, LERP and
CLAMP answer. -/
theorem interpolationResults : Obligations.InterpolationResults := fun _ _ _ _ _ _ =>
  ⟨answers_of_resultOf rfl, answers_of_resultOf rfl,
    ⟨_, _, answers_of_resultOf rfl, answers_of_resultOf rfl, answers_of_resultOf rfl⟩,
    answers_of_resultOf rfl,
    ⟨_, _, answers_of_resultOf rfl, answers_of_resultOf rfl, answers_of_resultOf rfl, answers_of_resultOf rfl⟩,
    answers_of_resultOf rfl, answers_of_resultOf rfl, answers_of_resultOf rfl⟩

/-- R219, for the words of the rules: 50 is half of 100, 25 a quarter of it, and 5 of 10 is 50 of 100. -/
theorem interpolation_worked_words :
    lerpWord 0x00000000 0x42C80000 0x3F000000 = 0x42480000 ∧ invLerpWord 0x00000000 0x42C80000 0x41C80000 = 0x3E800000 ∧
      remapWord 0x00000000 0x41200000 0x00000000 0x42C80000 0x40A00000 = 0x42480000 := by decide +kernel

/-- Settles O29: no rule of the family reads `CFG`, so the words are the same at every state. -/
theorem workedInterpolationResults : Obligations.WorkedInterpolationResults := by
  intro s
  obtain ⟨hlerp, hinvLerp, hremap⟩ := interpolation_worked_words
  exact ⟨answers_of_resultOf hlerp, answers_of_resultOf hinvLerp, answers_of_resultOf hremap⟩

end Sys2Proof.Proofs
end

section
/-! The one fault, and reset (R230, R250, R251; O7, O16, O17). -/

namespace Sys2Proof.Proofs

open Sys2Proof.Machine Sys2Proof.Safety

/-- R231: the response to a frame that decodes to a command is the word of the command's rule, with `F = 0`. -/
theorem responseTo_of_decoded (cfg : Cfg) {f : Frame} {i : Instr} (h : decode f = .ok i) :
    responseTo cfg f = ⟨resultOf cfg i, false⟩ := by
  rw [responseTo, h]
  rfl

/-- Settles O7: the listed command words decode, and the other frames were dealt with by O2. -/
theorem illegalCommandIsAnsweredWithFault : Obligations.IllegalCommandIsAnsweredWithFault := by
  refine fun s f => ⟨fun hillegal => (legalExactlyThe39CommandWords f).2 hillegal s, fun hlegal => ?_⟩
  obtain ⟨i, hi⟩ := (exists_decode_iff f).2 hlegal
  refine ⟨resultOf s.cfg i, ?_⟩
  rw [answerFrame_eq_deliver, responseTo_of_decoded s.cfg hi]
  rfl

/-- R250: under reset, with nothing in flight and no response pending, a step finds nothing to drop. -/
theorem step_under_reset {s : State} (hrst : s.rst = true) (hflight : s.inFlight = []) (hresp : s.responses = []) :
    step s = .next s := by
  obtain ⟨-, hdrop⟩ | ⟨hreleased, -⟩ := step_cases s
  · rw [hdrop, State.dropInFlight, ← hflight, ← hresp]
  · simp [hrst] at hreleased

/-- A state that a step keeps is kept by any number of steps. -/
theorem run_of_step_eq_self {s : State} (h : step s = .next s) (k : ℕ) : Host.Core.run Sys2Proof.core k s = .next s := by
  induction k with
  | zero => rfl
  | succ k ih => exact (run_succ_of_step k h).trans ih

/-- Settles O16: asserting reset drops everything at once, and a request presented after it gives a step nothing to do. -/
theorem nothingHappensUnderReset : Obligations.NothingHappensUnderReset := fun s f k =>
  ⟨s.assertReset.present f, run_of_step_eq_self (step_under_reset rfl rfl rfl) k, rfl, rfl, rfl, rfl, rfl⟩

/-- R250, R251: after reset is asserted and released the unit is the idle one, with the requests and the pace it had. -/
theorem releaseReset_assertReset (s : State) :
    s.assertReset.releaseReset = { State.idle s.cfg with requests := s.requests, pace := s.pace } := rfl

/-- Outside reset, with nothing in flight, pending or presented, the next request has its response, and no other is given,
once the steps of the pace and two more have passed. -/
theorem answers_first_request {s : State} (f : Frame) (hquiet : quiet s) (hreq : s.requests = []) :
    ∃ u : State, Host.Core.run Sys2Proof.core (s.pace.length + 2) (s.present f) = .next u ∧
      u.responses = [responseTo s.cfg f] ∧ u.inFlight = [] ∧ u.requests = [] := by
  obtain ⟨hrst, hflight, hresp⟩ := hquiet
  obtain ⟨u, hrun, huflight, hureq, -, huresp⟩ := everyRequestIsAnswered (s.present f) hrst
  exact ⟨u, by simpa [hflight, hreq] using hrun, by simpa [hflight, hreq, hresp] using huresp, huflight, hureq⟩

/-- Settles O17: reset keeps `CFG`, the requests and the pace, in which the two units agree, and the first request is answered
as at any idle unit. -/
theorem resetLeavesNoTrace : Obligations.ResetLeavesNoTrace := by
  intro s t f hcfg hsreq htreq hpace
  have hquiet : quiet s.assertReset.releaseReset := ⟨rfl, rfl, rfl⟩
  have hequal : s.assertReset.releaseReset = t.assertReset.releaseReset := by
    rw [releaseReset_assertReset, releaseReset_assertReset, hcfg, hsreq, htreq, hpace]
  exact ⟨hquiet, hequal, answers_first_request f hquiet hsreq⟩

end Sys2Proof.Proofs
end
